-- ==== Sys2Proof/Word.lean ====
section
/-! DEFINITION. The word types of CORE (00_scope.md R9, R12): a byte, a 32-bit register, an 11-bit channel value.
Every value is unsigned. Addition wraps at the width of the type, which is what R12 writes `a + b mod 2^N`. -/

namespace Sys2Proof

/-- R9: a RawByte, "an 8-bit unsigned value"; also the CRC register, the frame length, the packet type, the parser
cursor and a register-window offset. -/
abbrev Byte := BitVec 8

/-- R9, R80: a 32-bit register, counter, timer value or event word. -/
abbrev Word := BitVec 32

/-- R9, R30: a channel value, in [0, 2047]. -/
abbrev Chan := BitVec 11

end Sys2Proof
end

