-- ==== Sys2Proof/Config.lean ====
section
/-! DEFINITION. The implementation parameters of 00_scope.md R8 and R40. The constants the source fixes are plain
definitions. The two values the spec leaves as parameters of a built block (INTAKE_CAP: decision D4, 93 U1;
TICK_PERIOD: decision D6, 93 U2) are the fields of `Config`. No operation writes any of them (R40). -/

namespace Sys2Proof

/-- The parameters fixed when the block is built (R8, R40; 93_implementation_defined.md U1 and U2). -/
structure Config where
  /-- R8, D4: `INTAKE_CAP`, the capacity of the intake buffer. -/
  intakeCap : Nat
  /-- R8, D6: `TICK_PERIOD`, in timer counts. -/
  tickPeriod : Word
  deriving DecidableEq, Repr

/-- The ranges of R8 and U2: 1 <= INTAKE_CAP <= 2^32 - 1 and 1 <= TICK_PERIOD <= 2^32 - 1. -/
abbrev Config.Valid (c : Config) : Prop :=
  1 ≤ c.intakeCap ∧ c.intakeCap ≤ 2 ^ 32 - 1 ∧ c.tickPeriod ≠ 0

/-- The block the worked vectors of 95_test_vectors.md use: INTAKE_CAP = 64 (decision D29), TICK_PERIOD = 10000 (R8).
DESIGN CHOICE (log entry 2): INTAKE_CAP is an open parameter; 64 is only what `State.reset` is built with. -/
def Config.core : Config := ⟨64, 10000⟩

/-- R8: `SYNC_BYTE`. -/
def syncByte : Byte := 0xC8
/-- R8: `ACCEPT_TYPE`. -/
def acceptType : Byte := 0x16
/-- R8: `POLY`, the CRC polynomial. -/
def poly : Byte := 0xD5
/-- R8: `NCH`, the channel count. -/
def nch : Nat := 16
/-- R8: `BPC`, bits per channel. -/
def bpc : Nat := 11
/-- R8: `DATA_BYTES`, `NCH*BPC/8`. -/
def dataBytes : Nat := 22
/-- R8: `EXPECT_LEN`, the declared length of an accepted frame. -/
def expectLen : Byte := 24
/-- R8: `PAYLOAD_CAP`, the size of the capture buffer. -/
def payloadCap : Nat := 24

end Sys2Proof
end

