-- ==== Sys2Proof/Syntax.lean ====
section
/-! DEFINITION. The operations of CORE: one constructor per row of spec/opcode_table.json. The first nine are the
event operations of CORE's agents (30_encoding.md R78). The other seven are the rows of the frame parser's own decode
table: five input classes (R82) and the two type classes (R72), which run inside a `PSTEP` (41_scheduler.md R114). -/

namespace Sys2Proof

/-- 00_scope.md R10: the five agents whose atomic steps are the only changes of state. -/
inductive Agent where
  | serialReceive
  | timerCounter
  | tickSequencer
  | busHost
  | reset
  deriving DecidableEq, Repr

/-- The instruction set: R78 (event operations), R82 (parser input classes), R72 (type classes). -/
inductive Instr where
  /-- R100: `RXB b`, append one received byte to the intake buffer. -/
  | rxb (b : Byte)
  /-- R110: `TINC`, advance the free-running counter and test the alarm. -/
  | tinc
  /-- R112: `TACK`, acknowledge the timer interrupt and rearm the timer. -/
  | tack
  /-- R113: `DSNAP`, move the intake buffer's contents into the work buffer. -/
  | dsnap
  /-- R114: `PSTEP`, give the oldest drained byte to the frame parser. -/
  | pstep
  /-- R115: `DEND`, end the tick body. -/
  | dend
  /-- R182: `BRD off`, read one register of the window. -/
  | brd (off : Byte)
  /-- R183: `BWR off, data`, write one register of the window. -/
  | bwr (off : Byte) (data : BitVec 16)
  /-- R186: `RST`, reset CORE. -/
  | rst
  /-- R82 row 1, R131: the sync byte in AWAIT_SYNC. -/
  | syncHit
  /-- R82 row 2, R131: any other byte in AWAIT_SYNC. -/
  | syncMiss (b : Byte)
  /-- R82 row 3, R133: the length byte 0 in READ_LEN. -/
  | lenZero
  /-- R82 row 4, R133: any other length byte in READ_LEN. -/
  | len (b : Byte)
  /-- R82 row 5, R132: a body byte in READ_PAYLOAD. -/
  | body (b : Byte)
  /-- R72, R132: the body byte at CURSOR = 0 is the accepted type 0x16. -/
  | typeAccept
  /-- R72, R140: the body byte at CURSOR = 0 is another type. -/
  | typeOther (t : Byte)
  deriving DecidableEq, Repr

/-- The agent that takes the operation (R10, R78). A parser or type class runs inside the tick sequencer's `PSTEP`
(R130). -/
def Instr.agent : Instr → Agent
  | .rxb _ => .serialReceive
  | .tinc => .timerCounter
  | .tack => .tickSequencer
  | .dsnap => .tickSequencer
  | .pstep => .tickSequencer
  | .dend => .tickSequencer
  | .brd _ => .busHost
  | .bwr _ _ => .busHost
  | .rst => .reset
  | .syncHit => .tickSequencer
  | .syncMiss _ => .tickSequencer
  | .lenZero => .tickSequencer
  | .len _ => .tickSequencer
  | .body _ => .tickSequencer
  | .typeAccept => .tickSequencer
  | .typeOther _ => .tickSequencer

/-- The mnemonic of the instruction's row in spec/opcode_table.json. -/
def Instr.mnemonic : Instr → String
  | .rxb _ => "RXB"
  | .tinc => "TINC"
  | .tack => "TACK"
  | .dsnap => "DSNAP"
  | .pstep => "PSTEP"
  | .dend => "DEND"
  | .brd _ => "BRD"
  | .bwr _ _ => "BWR"
  | .rst => "RST"
  | .syncHit => "SYNC_HIT"
  | .syncMiss _ => "SYNC_MISS"
  | .lenZero => "LEN_ZERO"
  | .len _ => "LEN"
  | .body _ => "BODY"
  | .typeAccept => "TYPE_ACCEPT"
  | .typeOther _ => "TYPE_OTHER"

/-- The instruction is one of the nine event operations of R78, the only steps CORE's agents take (R10). -/
def Instr.isEvent : Instr → Bool
  | .rxb _ => true
  | .tinc => true
  | .tack => true
  | .dsnap => true
  | .pstep => true
  | .dend => true
  | .brd _ => true
  | .bwr _ _ => true
  | .rst => true
  | .syncHit => false
  | .syncMiss _ => false
  | .lenZero => false
  | .len _ => false
  | .body _ => false
  | .typeAccept => false
  | .typeOther _ => false

end Sys2Proof
end

