-- ==== Sys2Proof/Machine/State.lean ====
section
/-! DEFINITION. The state of CORE as plain data (10_state.md R22-R38, summary R41), its reset value (D18), and the
reasons a step can stop. Besides the spec's own elements State holds three fields of the model's: the build parameters
(`cfg`, R40), the operations the agents have supplied but not yet taken (`events`, R10, R76), and the values bus reads
have returned to the bus host (`busReads`, R182). -/

namespace Sys2Proof.Machine

/-- A byte array by index in one canonical form: indices strictly rising, no entry equal to what an unlisted index
reads as (`Memory.unlisted`). -/
abbrev Memory := List Host.Cell

/-- R25: `PSTATE`, the parser state. The 2-bit value 3 is never reached (R25, 93 U5) and has no constructor. -/
inductive PState where
  /-- 0 AWAIT_SYNC -/
  | awaitSync
  /-- 1 READ_LEN -/
  | readLen
  /-- 2 READ_PAYLOAD -/
  | readPayload
  deriving DecidableEq, Repr

/-- R38: `TPH`, the tick-handler phase. The 2-bit value 3 is never reached (R38, 93 U6) and has no constructor. -/
inductive TPhase where
  /-- 0 IDLE: no tick body outstanding -/
  | idle
  /-- 1 DUE: a tick is acknowledged, its body has not yet drained the intake -/
  | due
  /-- 2 PARSING: the body has taken its snapshot into WQ -/
  | parsing
  deriving DecidableEq, Repr

/-- R31, R201: the sticky STATUS flags. Flags 1 to 3 are the recorded error events of R201. -/
inductive StatusFlag where
  /-- R31: the channel array was updated by a validated frame -/
  | new
  /-- R31: an accepted frame failed its CRC check -/
  | crcErr
  /-- R31: the intake buffer overflowed and was reset -/
  | ovf
  /-- R31: an accepted-type frame completed with a declared length other than 24 -/
  | lenErr
  deriving DecidableEq, Repr

/-- The complete state (R41), with the model's own fields `cfg`, `events` and `busReads`. -/
structure State where
  /-- R8, R40: the parameters fixed when the block is built; no operation writes them. -/
  cfg : Config
  /-- R22: `IB`, the intake buffer, as index and byte pairs. -/
  ib : Memory
  /-- R23: `LEVEL`, the write cursor of IB, in [0, INTAKE_CAP]. -/
  level : Nat
  /-- R24: `WQ`, the drained work buffer, oldest byte first. -/
  wq : List Byte
  /-- R25: `PSTATE`. -/
  pstate : PState
  /-- R26: `FLEN`, the declared length of the current frame. -/
  flen : Byte
  /-- R27: `CURSOR`, the count of body bytes consumed. -/
  cursor : Byte
  /-- R28: `PTYPE`, the packet type of the current (or previous) frame. -/
  ptype : Byte
  /-- R29: `PB[0..23]`, the capture buffer. -/
  pb : Vector Byte 24
  /-- R30: `CH[0..15]`, the channel array. -/
  ch : Vector Chan 16
  /-- R31: `NEW`. -/
  new : Bool
  /-- R31: `CRCERR`. -/
  crcErr : Bool
  /-- R31: `OVF`. -/
  ovf : Bool
  /-- R31: `LENERR`. -/
  lenErr : Bool
  /-- R32: `FRAME_SEQ`. -/
  frameSeq : Word
  /-- R32: `CRC_ERR_CNT`. -/
  crcErrCnt : Word
  /-- R32: `OVF_CNT`. -/
  ovfCnt : Word
  /-- R33: `COUNT`, the free-running counter. -/
  count : Word
  /-- R34: `ALARM`. -/
  alarm : Word
  /-- R35: `ARMED`. -/
  armed : Bool
  /-- R36: `PENDING`, the timer interrupt condition. -/
  pending : Bool
  /-- R38: `TPH`. -/
  tph : TPhase
  /-- The model's own (R10, R62, R76): the event words the agents supply, in the order of the run, next first. -/
  events : List Word
  /-- The model's own (R182): the values bus reads have returned to the bus host, newest first. -/
  busReads : List Word
  deriving DecidableEq, Repr

/-- R230, R41, D18: the reset state of a block built with the parameters `c`, with no operation supplied and no bus
read taken. -/
def State.resetWith (c : Config) : State where
  cfg := c
  ib := []
  level := 0
  wq := []
  pstate := .awaitSync
  flen := 0
  cursor := 0
  ptype := 0
  pb := Vector.replicate 24 0
  ch := Vector.replicate 16 0
  new := false
  crcErr := false
  ovf := false
  lenErr := false
  frameSeq := 0
  crcErrCnt := 0
  ovfCnt := 0
  count := 0
  alarm := c.tickPeriod
  armed := true
  pending := false
  tph := .idle
  events := []
  busReads := []

/-- R230: the machine right after reset, built with `Config.core` (INTAKE_CAP = 64 is DESIGN CHOICE, log entry 2). -/
def State.reset : State := State.resetWith Config.core

/-- Why a step stops. -/
inductive Fault where
  /-- R11, R202 (b), 93 U4 (stuck): `TACK` issued without PENDING = 1 and TPH = IDLE. Raised by execTack. Safe: the
  spec gives such an operation no step. -/
  | tackNotEnabled
  /-- R11, R202 (b), U4: `DSNAP` issued outside DUE. Raised by execDsnap. Safe. -/
  | dsnapNotEnabled
  /-- R11, R202 (b), U4: `PSTEP` issued with WQ empty or outside PARSING. Raised by execPstep. Safe. -/
  | pstepNotEnabled
  /-- R11, R202 (b), U4: `DEND` issued with WQ not empty or outside PARSING. Raised by execDend. Safe. -/
  | dendNotEnabled
  /-- R82: a parser or type class named in a state, or with a byte, that does not select its row. Raised by the seven
  class meanings; a `PSTEP` never raises it. Safe: such a row is not selected and has no step. -/
  | inputClassNotSelected
  /-- R51: an index outside IB. Raised by execRxb and execDsnap in a state with LEVEL > INTAKE_CAP or INTAKE_CAP = 0,
  which no run reaches. Safe. -/
  | indexOutOfRange
  /-- R11, R21: no agent has supplied an operation. Raised by step when `events` is empty. Safe. -/
  | noOperation
  deriving DecidableEq, Repr

/-- Why a word or an instruction is rejected. -/
inductive Refusal where
  /-- An instruction whose meaning is not in the model, by its mnemonic. No arm of exec answers it. Safe. -/
  | notModelled (mnemonic : String)
  /-- R79: `refuse(reserved encoding)`: the event word matches no row. Raised by step. Safe. -/
  | reservedEncoding
  /-- R56: `refuse(misaligned)`: a bus access with off mod 4 != 0. Raised by step (such a word is not encodable, R79)
  and by execBrd and execBwr. Safe. -/
  | misaligned
  deriving DecidableEq, Repr

/-- The outcome of one operation. -/
abbrev Result := Host.Outcome State Fault Refusal

end Sys2Proof.Machine
end

