-- ==== Sys2Proof/Machine/Flags.lean ====
section
/-! DEFINITION. The STATUS flags and the diagnostic counters: reading them as a register, setting them with their
counters, and clearing them by a bus write (10_state.md R31, R32; 45_bus_interface.md R184; 60_exceptions.md R201). -/

namespace Sys2Proof.Machine

/-- A 1-bit field as a register value. -/
def bitWord (f : Bool) : Word := if f then 1 else 0

/-- R201: the code of a recorded event is the bit number of its STATUS flag (R80). -/
def StatusFlag.bit : StatusFlag → Nat
  | .new => 0
  | .crcErr => 1
  | .ovf => 2
  | .lenErr => 3

/-- R31: the flag's current value. -/
def State.flag (s : State) : StatusFlag → Bool
  | .new => s.new
  | .crcErr => s.crcErr
  | .ovf => s.ovf
  | .lenErr => s.lenErr

/-- R80, R181: STATUS reads `NEW | CRCERR << 1 | OVF << 2 | LENERR << 3`. -/
def statusWord (s : State) : Word :=
  bitWord s.new ||| bitWord s.crcErr <<< 1 ||| bitWord s.ovf <<< 2 ||| bitWord s.lenErr <<< 3

/-- R184: `StatusW1C(v)`, writing 1 to a flag's bit clears it; v[31:4] is ignored. -/
def statusW1C (v : Word) (s : State) : State :=
  { s with
    new := s.new && !v.getLsbD 0
    crcErr := s.crcErr && !v.getLsbD 1
    ovf := s.ovf && !v.getLsbD 2
    lenErr := s.lenErr && !v.getLsbD 3 }

/-- R137: a channel update is recorded by FRAME_SEQ + 1 mod 2^32 and NEW = 1. -/
def recordUpdate (s : State) : State :=
  { s with frameSeq := s.frameSeq + 1, new := true }

/-- R138: a CRC mismatch is recorded by CRCERR = 1 and CRC_ERR_CNT + 1 mod 2^32. -/
def recordCrcError (s : State) : State :=
  { s with crcErr := true, crcErrCnt := s.crcErrCnt + 1 }

/-- R101: an intake overflow is recorded by OVF = 1 and OVF_CNT + 1 mod 2^32. -/
def recordOverflow (s : State) : State :=
  { s with ovf := true, ovfCnt := s.ovfCnt + 1 }

/-- R139: an accepted-type length error is recorded by LENERR = 1; it has no counter (R206). -/
def recordLenError (s : State) : State :=
  { s with lenErr := true }

end Sys2Proof.Machine
end

