-- ==== Sys2Proof/WellFormed.lean ====
section
/-! DEFINITION. Which instructions the encodings can spell: an aligned bus offset (30_encoding.md R77), and for the
classes chosen by first match (R82, R72) an operand that no earlier row takes. -/

namespace Sys2Proof

/-- R77, R82, R72: the instruction has an encoding of its own. -/
def Instr.wellFormed : Instr → Bool
  | .rxb _ => true
  | .tinc => true
  | .tack => true
  | .dsnap => true
  | .pstep => true
  | .dend => true
  | .brd off => off.toNat % 4 == 0
  | .bwr off _ => off.toNat % 4 == 0
  | .rst => true
  | .syncHit => true
  | .syncMiss b => b != syncByte
  | .lenZero => true
  | .len b => b != 0
  | .body _ => true
  | .typeAccept => true
  | .typeOther t => t != acceptType

end Sys2Proof
end

