-- ==== Sys2Proof/Decode.lean ====
section
/-! DEFINITION. Decoding and encoding. CORE has three decode tables: the 32-bit event word (30_encoding.md R76-R79),
the 10-bit parser input word `PIN = PSTATE << 8 | b` (R82) and the type byte (R72). A `Code` says which of the three a
word belongs to. Decoding is total and rejects by name. -/

namespace Sys2Proof

/-- A word of one of the three decode tables. -/
inductive Code where
  /-- R76: an event word. -/
  | event (w : Word)
  /-- R82: a parser input word, PSTATE in bits [9:8] and the byte in bits [7:0]. -/
  | pin (p : BitVec 10)
  /-- R72, R82: the body byte at CURSOR = 0. -/
  | typeByte (t : Byte)
  deriving DecidableEq, Repr

/-- Why a word spells no instruction. -/
inductive DecodeError where
  /-- R79: OPC 0x0 or 0x9-0xE. -/
  | reservedOpcode
  /-- R79: a must-be-zero bit is set. -/
  | nonzeroField
  /-- R56, R79: a BRD or BWR offset with off[1:0] != 00. -/
  | misaligned
  /-- R82: a PIN with bits [9:8] = 11 matches no row. -/
  | noInputClass
  deriving DecidableEq, Repr

/-- R76: `OPC` = bits [31:28] of an event word. -/
def eventOpc (w : Word) : BitVec 4 := w.extractLsb' 28 4
/-- R77: the datum `b` (RXB) or the offset `off` (BRD, BWR) = bits [7:0]. -/
def eventByte (w : Word) : Byte := w.extractLsb' 0 8
/-- R77: `data` = bits [23:8] of a BWR word. -/
def eventData (w : Word) : BitVec 16 := w.extractLsb' 8 16

/-- R77, formats EN: bits [27:0] must be zero. -/
def noOperand (w : Word) (i : Instr) : Except DecodeError Instr :=
  if w.extractLsb' 0 28 = 0 then .ok i else .error .nonzeroField

/-- R77, formats EB and EA: bits [27:8] must be zero. -/
def byteOperand (w : Word) (i : Instr) : Except DecodeError Instr :=
  if w.extractLsb' 8 20 = 0 then .ok i else .error .nonzeroField

/-- R77, format EW: bits [27:24] must be zero. -/
def writeOperand (w : Word) (i : Instr) : Except DecodeError Instr :=
  if w.extractLsb' 24 4 = 0 then .ok i else .error .nonzeroField

/-- R79: a bus offset with off[1:0] != 00 is refused. -/
def alignedOffset (w : Word) (r : Except DecodeError Instr) : Except DecodeError Instr :=
  if w.extractLsb' 0 2 = 0 then r else .error .misaligned

/-- R76-R79: the operation an event word names. -/
def decodeEvent (w : Word) : Except DecodeError Instr :=
  if eventOpc w = 0x1 then byteOperand w (.rxb (eventByte w))
  else if eventOpc w = 0x2 then noOperand w .tinc
  else if eventOpc w = 0x3 then noOperand w .tack
  else if eventOpc w = 0x4 then noOperand w .dsnap
  else if eventOpc w = 0x5 then noOperand w .pstep
  else if eventOpc w = 0x6 then noOperand w .dend
  else if eventOpc w = 0x7 then alignedOffset w (byteOperand w (.brd (eventByte w)))
  else if eventOpc w = 0x8 then alignedOffset w (writeOperand w (.bwr (eventByte w) (eventData w)))
  else if eventOpc w = 0xF then noOperand w .rst
  else .error .reservedOpcode

/-- R82: the input class of a parser input word; rows in order, the first match wins. -/
def decodePin (p : BitVec 10) : Except DecodeError Instr :=
  if p &&& 0x3FF = 0x0C8 then .ok .syncHit
  else if p &&& 0x300 = 0x000 then .ok (.syncMiss (p.extractLsb' 0 8))
  else if p &&& 0x3FF = 0x100 then .ok .lenZero
  else if p &&& 0x300 = 0x100 then .ok (.len (p.extractLsb' 0 8))
  else if p &&& 0x300 = 0x200 then .ok (.body (p.extractLsb' 0 8))
  else .error .noInputClass

/-- R72, R82: the type class of the body byte at CURSOR = 0; rows in order, the first match wins. -/
def decodeType (t : Byte) : Except DecodeError Instr :=
  if t &&& 0xFF = 0x16 then .ok .typeAccept
  else .ok (.typeOther t)

/-- The instruction a word of any of the three tables spells. -/
def decode : Code → Except DecodeError Instr
  | .event w => decodeEvent w
  | .pin p => decodePin p
  | .typeByte t => decodeType t

/-- R77: an event word from its fields: OPC [31:28], zero [27:24], data [23:8], byte [7:0]. -/
def eventWord (opc : BitVec 4) (data : BitVec 16) (b : Byte) : Word :=
  opc.setWidth 32 <<< 28 ||| data.setWidth 32 <<< 8 ||| b.setWidth 32

/-- R82: a parser input word from the parser state's code and the byte. -/
def pinWord (st : BitVec 2) (b : Byte) : BitVec 10 := st.setWidth 10 <<< 8 ||| b.setWidth 10

/-- The word of a well-formed instruction, from R77, R78 (event words), R82 (parser input words) and R72 (type). -/
def encode : Instr → Code
  | .rxb b => .event (eventWord 0x1 0 b)
  | .tinc => .event (eventWord 0x2 0 0)
  | .tack => .event (eventWord 0x3 0 0)
  | .dsnap => .event (eventWord 0x4 0 0)
  | .pstep => .event (eventWord 0x5 0 0)
  | .dend => .event (eventWord 0x6 0 0)
  | .brd off => .event (eventWord 0x7 0 off)
  | .bwr off data => .event (eventWord 0x8 data off)
  | .rst => .event (eventWord 0xF 0 0)
  | .syncHit => .pin (pinWord 0 0xC8)
  | .syncMiss b => .pin (pinWord 0 b)
  | .lenZero => .pin (pinWord 1 0)
  | .len b => .pin (pinWord 1 b)
  | .body b => .pin (pinWord 2 b)
  | .typeAccept => .typeByte 0x16
  | .typeOther t => .typeByte t

/-- R78: the event word of an event operation; 0 (reserved, R79) for a class, which has no event word. -/
def wordOf (i : Instr) : Word :=
  match encode i with
  | .event w => w
  | .pin _ => 0
  | .typeByte _ => 0

/-- R78: a row of the opcode table; a word `w` selects it when `w & mask = value`. -/
structure EventRow where
  mnemonic : String
  value : Word
  mask : Word
  deriving DecidableEq, Repr

/-- R78: `w & mask = match`. -/
def EventRow.selects (r : EventRow) (w : Word) : Bool := w &&& r.mask == r.value

/-- R78: the match/mask pairs of the nine event operations. -/
def eventRows : List EventRow :=
  [⟨"RXB", 0x10000000, 0xFFFFFF00⟩, ⟨"TINC", 0x20000000, 0xFFFFFFFF⟩, ⟨"TACK", 0x30000000, 0xFFFFFFFF⟩] ++
  [⟨"DSNAP", 0x40000000, 0xFFFFFFFF⟩, ⟨"PSTEP", 0x50000000, 0xFFFFFFFF⟩, ⟨"DEND", 0x60000000, 0xFFFFFFFF⟩] ++
  [⟨"BRD", 0x70000000, 0xFFFFFF03⟩, ⟨"BWR", 0x80000000, 0xFF000003⟩, ⟨"RST", 0xF0000000, 0xFFFFFFFF⟩]

/-- R82: mnemonic, match and mask of the parser's input classes, in order; the first match wins. -/
def pinRows : List (String × BitVec 10 × BitVec 10) :=
  [("SYNC_HIT", 0x0C8, 0x3FF), ("SYNC_MISS", 0x000, 0x300), ("LEN_ZERO", 0x100, 0x3FF)] ++
  [("LEN", 0x100, 0x300), ("BODY", 0x200, 0x300)]

/-- R72: mnemonic, match and mask of the type classes, in order; the first match wins. -/
def typeRows : List (String × Byte × Byte) := [("TYPE_ACCEPT", 0x16, 0xFF), ("TYPE_OTHER", 0x00, 0x00)]

/-- Which table a word of `nbits` bits (in whole bytes, as spec/opcode_table.json numbers them) belongs to: 32-bit
event words, 10-bit parser input words, 8-bit type bytes. `none`: no table has such a word. -/
def tableCode (nbits w : Nat) : Option Code :=
  if nbits ≤ 8 then (if w < 2 ^ 8 then some (.typeByte (BitVec.ofNat 8 w)) else none)
  else if nbits ≤ 16 then (if w < 2 ^ 10 then some (.pin (BitVec.ofNat 10 w)) else none)
  else if nbits ≤ 32 then (if w < 2 ^ 32 then some (.event (BitVec.ofNat 32 w)) else none)
  else none

/-- The instruction the decoder reads from a word of spec/opcode_table.json (none where it refuses). -/
def decodeTableWord (nbits w : Nat) : Option Instr :=
  match tableCode nbits w with
  | none => none
  | some c => (decode c).toOption

end Sys2Proof
end

