-- ==== Sys2Proof/Machine/Operands.lean ====
section
/-! DEFINITION. Operand forms: the codes of the two phase fields, the alignment of a bus offset, the value a BWR writes,
and the parser's input word. -/

namespace Sys2Proof.Machine

/-- R25: the 2-bit encoding of PSTATE. -/
def PState.code : PState → BitVec 2
  | .awaitSync => 0
  | .readLen => 1
  | .readPayload => 2

/-- R25: the parser state a 2-bit code names; 3 names none (93 U5). -/
def pstateOfCode (c : BitVec 2) : Option PState :=
  if c = 0 then some .awaitSync
  else if c = 1 then some .readLen
  else if c = 2 then some .readPayload
  else none

/-- R38: the 2-bit encoding of TPH. -/
def TPhase.code : TPhase → BitVec 2
  | .idle => 0
  | .due => 1
  | .parsing => 2

/-- R56: a bus access is 4-byte aligned, `off mod 4 = 0`. -/
def alignedOff (off : Byte) : Bool := off.toNat % 4 == 0

/-- R77, R183: the value a BWR writes, `v = zext_32(data)`. -/
def writeValue (data : BitVec 16) : Word := data.setWidth 32

/-- R82: the parser's input word `PIN = PSTATE[1:0] << 8 | b`. -/
def parserInput (s : State) (b : Byte) : BitVec 10 := pinWord s.pstate.code b

end Sys2Proof.Machine
end

