-- ==== Sys2Proof/Machine/Ops.lean ====
section
/-! DEFINITION. The named operations over CORE's storage: the byte arrays IB, WQ and PB (20_memory.md R50, R51), the
guards of the operations (00_scope.md R12), the register window (30_encoding.md R80, 45_bus_interface.md R181), and
how the next operation is taken from the agents' supply (00_scope.md R10). CORE raises no exception (60_exceptions.md
R200): its interrupt entry is `acknowledgeTick` and its return `endTick` (R207, R208). -/

namespace Sys2Proof.Machine

/-- R22: what an index of IB that nothing has written reads as, its reset value 0x00 (D18). -/
def Memory.unlisted : Byte := 0x00

/-- R12: `MemRead(A, i)`. -/
def Memory.read : Memory → Nat → Byte
  | [], _ => Memory.unlisted
  | (a, b) :: m, i => if i = a then b else Memory.read m i

/-- R12: `MemWrite(A, i, v)`, keeping the canonical form. -/
def Memory.write : Memory → Nat → Byte → Memory
  | [], i, v => if v = Memory.unlisted then [] else [(i, v)]
  | (a, b) :: m, i, v =>
    if i < a then (if v = Memory.unlisted then (a, b) :: m else (i, v) :: (a, b) :: m)
    else if i = a then (if v = Memory.unlisted then m else (a, v) :: m)
    else (a, b) :: Memory.write m i v

/-- Every listed index is above `lo`, indices strictly rise, and no entry equals what an unlisted index reads as. -/
def Memory.wfAbove : Memory → Option Nat → Bool
  | [], _ => true
  | (a, b) :: m, lo =>
    (match lo with | none => true | some l => decide (l < a)) && b != Memory.unlisted && Memory.wfAbove m (some a)

/-- The canonical form: equal memories are equal lists. -/
def Memory.wf (m : Memory) : Bool := Memory.wfAbove m none

/-- R22, R113: the bytes IB holds, `[MemRead(IB, 0), ..., MemRead(IB, LEVEL-1)]`, in arrival order. -/
def intakeHeld (s : State) : List Byte := (List.range s.level).map (Memory.read s.ib)

/-- R100: `MemWrite(IB, LEVEL, b); LEVEL <- LEVEL + 1`. R51: an index outside IB never occurs; the model faults there. -/
def intakeAppend (b : Byte) (s : State) : Result :=
  if s.level < s.cfg.intakeCap then .next { s with ib := Memory.write s.ib s.level b, level := s.level + 1 }
  else .fault .indexOutOfRange

/-- R101: the write cursor goes to zero and the overflow is recorded; the bytes of IB are not erased. -/
def intakeOverflow (s : State) : State := recordOverflow { s with level := 0 }

/-- R113: IB's contents become WQ and IB is truncated to empty; no byte of IB is erased. -/
def intakeSnapshot (s : State) : Result :=
  if s.level ≤ s.cfg.intakeCap then .next { s with wq := intakeHeld s, level := 0, tph := .parsing }
  else .fault .indexOutOfRange

/-- R132: `MemWrite(PB, i, b)` for i < PAYLOAD_CAP; bytes beyond it are discarded. -/
def captureByte (i b : Byte) (s : State) : State :=
  if i.toNat < payloadCap then { s with pb := s.pb.setIfInBounds i.toNat b } else s

/-- R112: the entry of the tick handler: acknowledge, rearm from the counter's current value, the body is due. -/
def acknowledgeTick (s : State) : State :=
  { s with pending := false, alarm := s.count + s.cfg.tickPeriod, armed := true, tph := .due }

/-- R115, R208: the return of the tick handler. -/
def endTick (s : State) : State := { s with tph := .idle }

/-- R112: `TACK` is enabled when PENDING = 1 and TPH = IDLE. -/
def tackEnabled (s : State) : Bool := s.pending && s.tph == .idle
/-- R113: `DSNAP` is enabled when TPH = DUE. -/
def dsnapEnabled (s : State) : Bool := s.tph == .due
/-- R114: `PSTEP` is enabled when TPH = PARSING and WQ != []. -/
def pstepEnabled (s : State) : Bool := s.tph == .parsing && !s.wq.isEmpty
/-- R115: `DEND` is enabled when TPH = PARSING and WQ = []. -/
def dendEnabled (s : State) : Bool := s.tph == .parsing && s.wq.isEmpty

/-- R12, R82: the guard of an operation; for a parser or type class, that its row is the one selected. -/
def enabled : Instr → State → Bool
  | .rxb _, _ => true
  | .tinc, _ => true
  | .tack, s => tackEnabled s
  | .dsnap, s => dsnapEnabled s
  | .pstep, s => pstepEnabled s
  | .dend, s => dendEnabled s
  | .brd _, _ => true
  | .bwr _ _, _ => true
  | .rst, _ => true
  | .syncHit, s => s.pstate == .awaitSync
  | .syncMiss b, s => s.pstate == .awaitSync && b != syncByte
  | .lenZero, s => s.pstate == .readLen
  | .len b, s => s.pstate == .readLen && b != 0
  | .body _, s => s.pstate == .readPayload
  | .typeAccept, s => s.pstate == .readPayload && s.cursor == 0
  | .typeOther t, s => s.pstate == .readPayload && s.cursor == 0 && t != acceptType

/-- R80: the registers of the window. -/
inductive Register where
  | ch (k : Nat)
  | status
  | frameSeq
  | crcErrCnt
  | ovfCnt
  | parser
  | intakeLevel
  | timerCount
  | timerAlarm
  | timerStat
  | config0
  | config1
  | config2
  | payload (j : Nat)
  | reserved
  deriving DecidableEq, Repr

/-- R60, R80, R181: the register at a byte offset of the window. -/
def registerAt (off : Byte) : Register :=
  if off ≤ 0x3C then .ch (off.toNat / 4)
  else if off = 0x40 then .status
  else if off = 0x44 then .frameSeq
  else if off = 0x48 then .crcErrCnt
  else if off = 0x4C then .ovfCnt
  else if off = 0x50 then .parser
  else if off = 0x54 then .intakeLevel
  else if off = 0x58 then .timerCount
  else if off = 0x5C then .timerAlarm
  else if off = 0x60 then .timerStat
  else if off = 0x64 then .config0
  else if off = 0x68 then .config1
  else if off = 0x6C then .config2
  else if 0x80 ≤ off ∧ off ≤ 0x94 then .payload ((off.toNat - 0x80) / 4)
  else .reserved

/-- R54: four bytes as a 32-bit value, the first in bits [7:0]. -/
def leWord (b0 b1 b2 b3 : Byte) : Word :=
  b0.setWidth 32 ||| b1.setWidth 32 <<< 8 ||| b2.setWidth 32 <<< 16 ||| b3.setWidth 32 <<< 24

/-- R29: byte `i` of PB as the window shows it. -/
def pbByte (s : State) (i : Nat) : Byte := s.pb.getD i 0

/-- R80, R181: the 32-bit value of a register; a reserved register reads as zero. -/
def registerValue (s : State) : Register → Word
  | .ch k => (s.ch.getD k 0).setWidth 32
  | .status => statusWord s
  | .frameSeq => s.frameSeq
  | .crcErrCnt => s.crcErrCnt
  | .ovfCnt => s.ovfCnt
  | .parser => s.pstate.code.setWidth 32 ||| s.flen.setWidth 32 <<< 8 ||| s.ptype.setWidth 32 <<< 16 |||
      s.cursor.setWidth 32 <<< 24
  | .intakeLevel => BitVec.ofNat 32 s.level
  | .timerCount => s.count
  | .timerAlarm => s.alarm
  | .timerStat => bitWord s.armed ||| bitWord s.pending <<< 1 ||| s.tph.code.setWidth 32 <<< 2
  | .config0 => syncByte.setWidth 32 ||| acceptType.setWidth 32 <<< 8 ||| poly.setWidth 32 <<< 16 |||
      expectLen.setWidth 32 <<< 24
  | .config1 => BitVec.ofNat 32 s.cfg.intakeCap
  | .config2 => s.cfg.tickPeriod
  | .payload j => leWord (pbByte s (4 * j)) (pbByte s (4 * j + 1)) (pbByte s (4 * j + 2)) (pbByte s (4 * j + 3))
  | .reserved => 0

/-- R181: `RegRead(off)`. -/
def regRead (s : State) (off : Byte) : Word := registerValue s (registerAt off)

/-- R182: the bus host receives the value read; no element of CORE is written. -/
def returnToHost (v : Word) (s : State) : State := { s with busReads := v :: s.busReads }

/-- R183: only STATUS can be written, as write-1-to-clear; a write to any other register has no effect. -/
def registerWrite (v : Word) (s : State) : Register → State
  | .ch _ => s
  | .status => statusW1C v s
  | .frameSeq => s
  | .crcErrCnt => s
  | .ovfCnt => s
  | .parser => s
  | .intakeLevel => s
  | .timerCount => s
  | .timerAlarm => s
  | .timerStat => s
  | .config0 => s
  | .config1 => s
  | .config2 => s
  | .payload _ => s
  | .reserved => s

/-- R183: `BWR` of the 32-bit value `v` at `off`. -/
def regWrite (v : Word) (off : Byte) (s : State) : State := registerWrite v s (registerAt off)

/-- R186: every element of R41 takes its reset value. The build parameters, the operations not yet taken and the
values already returned to the bus host are not CORE's state (R40, R186) and stay. -/
def resetCore (s : State) : State :=
  { State.resetWith s.cfg with events := s.events, busReads := s.busReads }

/-- R10, R62: the next operation of the run, and the state with it taken from the supply. -/
def takeEvent (s : State) : Option (Word × State) :=
  match s.events with
  | [] => none
  | w :: rest => some (w, { s with events := rest })

/-- R79, R56: the refusal of a word that spells no operation. -/
def refusalOf : DecodeError → Refusal
  | .reservedOpcode => .reservedEncoding
  | .nonzeroField => .reservedEncoding
  | .misaligned => .misaligned
  | .noInputClass => .reservedEncoding

/-- The event word `w` is supplied as the next operation. -/
def placeEvent (w : Word) (s : State) : State := { s with events := w :: s.events }

/-- The byte `b` is the next byte the tick sequencer parses, and `PSTEP` (0x50000000) the next operation. -/
def placeByte (b : Byte) (s : State) : State :=
  placeEvent 0x50000000 { s with wq := b :: s.wq, tph := .parsing }

/-- R82, R130: a parser input word is what a `PSTEP` meets when PSTATE and the head of WQ are its two fields. A word
with bits [9:8] = 11 is supplied as a (reserved) event word. -/
def placePin (p : BitVec 10) (s : State) : State :=
  match pstateOfCode (p.extractLsb' 8 2) with
  | some st => placeByte (p.extractLsb' 0 8) { s with pstate := st }
  | none => placeEvent (p.setWidth 32) s

/-- R82, R132: a type byte is what a `PSTEP` meets in READ_PAYLOAD at CURSOR = 0. -/
def placeType (t : Byte) (s : State) : State :=
  placeByte t { s with pstate := .readPayload, cursor := 0 }

end Sys2Proof.Machine
end

