-- ==== Sys2Proof/Machine/Bus.lean ====
section
/-! DEFINITION. The bus interface and the reset operation (45_bus_interface.md): BRD, BWR, RST. -/

namespace Sys2Proof.Machine

/-- R182, R56: `BRD off`. -/
def execBrd (off : Byte) (s : State) : Result :=
  if alignedOff off then .next (returnToHost (regRead s off) s) else .refused .misaligned

/-- R183, R56: `BWR off, data`. -/
def execBwr (off : Byte) (data : BitVec 16) (s : State) : Result :=
  if alignedOff off then .next (regWrite (writeValue data) off s) else .refused .misaligned

/-- R186: `RST`. -/
def execRst (s : State) : Result := .next (resetCore s)

end Sys2Proof.Machine
end

