-- ==== Sys2Proof/Machine/Intake.lean ====
section
/-! DEFINITION. The intake path (40_intake.md): RXB. -/

namespace Sys2Proof.Machine

/-- R100, R101: `RXB b`. The overflow test comes before the write, so the arriving byte is kept. -/
def execRxb (b : Byte) (s : State) : Result :=
  intakeAppend b (if s.level = s.cfg.intakeCap then intakeOverflow s else s)

end Sys2Proof.Machine
end

