-- ==== Sys2Proof/Machine/Crc.lean ====
section
/-! DEFINITION. The CRC-8 bit-serial engine (43_crc8.md R160-R162): pure functions with no state of their own. -/

namespace Sys2Proof.Machine

/-- R160: `CrcShift(r, poly)`, one bit step. -/
def crcShift (r p : Byte) : Byte :=
  if r.getLsbD 7 then (r <<< 1) ^^^ p else r <<< 1

/-- R161: `n` bit steps. -/
def crcShifts (p : Byte) : Nat → Byte → Byte
  | 0, r => r
  | n + 1, r => crcShifts p n (crcShift r p)

/-- R161: `CrcByte(r, b, poly)`: the byte enters by exclusive OR, then 8 bit steps. -/
def crcByte (r b p : Byte) : Byte := crcShifts p 8 (r ^^^ b)

/-- R162: `crc8(S, poly)`: the register starts at zero; no final XOR, no reflection. -/
def crc8With (p : Byte) (bytes : List Byte) : Byte := bytes.foldl (fun r b => crcByte r b p) 0

/-- R162: `crc8(S)` with the polynomial POLY = 0xD5. -/
def crc8 (bytes : List Byte) : Byte := crc8With poly bytes

end Sys2Proof.Machine
end

