-- ==== Sys2Proof/Machine/Unpacker.lean ====
section
/-! DEFINITION. The 11-bit channel unpacker (44_channel_unpacker.md R170) and its inverse, the packer (R172), which is
used by frames built from channel values and is no operation of CORE. -/

namespace Sys2Proof.Machine

/-- R170: stream bit `p` is bit `p mod 8` of data byte `p div 8`. -/
def streamBit (d : Vector Byte 22) (p : Nat) : Bool := (d.getD (p / 8) 0).getLsbD (p % 8)

/-- R170: one pass of the loop: `acc[p div 11] <- acc[p div 11] | (bit << (p mod 11))`. -/
def unpackStep (d : Vector Byte 22) (acc : Vector Chan 16) (p : Nat) : Vector Chan 16 :=
  acc.setIfInBounds (p / bpc) (acc.getD (p / bpc) 0 ||| (if streamBit d p then 1#11 else 0#11) <<< (p % bpc))

/-- R170: `Unpack(D)`: all accumulators zero, then the 176 stream bits in order. -/
def unpack (d : Vector Byte 22) : Vector Chan 16 :=
  (List.range (nch * bpc)).foldl (unpackStep d) (Vector.replicate 16 0)

/-- R170: `D[j] = PB[j+1]`, the 22 data bytes of the capture buffer. -/
def dataBytesOf (pb : Vector Byte 24) : Vector Byte 22 := Vector.ofFn fun j => pb.getD (j.val + 1) 0

/-- R172: `W = sum for k in [0,15] of c[k] << (11k)`. -/
def packedNumber (c : Vector Chan 16) : Nat :=
  ((List.range 16).map fun k => (c.getD k 0).toNat <<< (11 * k)).sum

/-- R172: `pack(c)[j] = (W >> (8j)) & 0xFF`. -/
def pack (c : Vector Chan 16) : Vector Byte 22 :=
  Vector.ofFn fun j => BitVec.ofNat 8 (packedNumber c >>> (8 * j.val))

end Sys2Proof.Machine
end

