-- ==== Sys2Proof/Machine/Parser.lean ====
section
/-! DEFINITION. The frame synchroniser (42_frame_parser.md R130-R142): `ParseByte`, `CompleteFrame`, and the meanings
of the parser's five input classes (R82) and two type classes (R72). A class meaning is the effect of `ParseByte` on a
byte that selects that class, written out from the rule of the class. -/

namespace Sys2Proof.Machine

/-- R136: `CompleteFrame()`, run in the step whose byte ends a frame. -/
def completeFrame (s : State) : State :=
  if s.ptype ≠ acceptType then s
  else if s.flen ≠ expectLen then recordLenError s
  else if crc8 s.pb.toList = 0 then recordUpdate { s with ch := unpack (dataBytesOf s.pb) }
  else recordCrcError s

/-- R132: the cursor advances on every body byte; when it reaches FLEN the frame completes. -/
def advanceCursor (s : State) : State :=
  if s.cursor + 1 = s.flen then completeFrame { s with cursor := s.cursor + 1, pstate := .awaitSync }
  else { s with cursor := s.cursor + 1 }

/-- R132: the first body byte is the packet type. -/
def latchType (b : Byte) (s : State) : State := if s.cursor = 0 then { s with ptype := b } else s

/-- R132: a body byte of an accepted-type frame is captured at index CURSOR. -/
def captureBody (b : Byte) (s : State) : State :=
  if s.ptype = acceptType then captureByte s.cursor b s else s

/-- R132: READ_PAYLOAD, one body byte. -/
def bodyByte (b : Byte) (s : State) : State := advanceCursor (captureBody b (latchType b s))

/-- R133: READ_LEN, the length byte. -/
def lengthByte (b : Byte) (s : State) : State :=
  { s with flen := b, cursor := 0, pstate := if b = 0 then .awaitSync else .readPayload }

/-- R131: AWAIT_SYNC, a sync candidate. -/
def syncCandidate (b : Byte) (s : State) : State :=
  if b = syncByte then { s with pstate := .readLen } else s

/-- R130: `ParseByte(b)`. -/
def parseByte (b : Byte) (s : State) : State :=
  match s.pstate with
  | .awaitSync => syncCandidate b s
  | .readLen => lengthByte b s
  | .readPayload => bodyByte b s

/-- `ParseByte` applied to each byte in order (95_test_vectors.md, "Parse S"). -/
def parseBytes (bs : List Byte) (s : State) : State := bs.foldl (fun t b => parseByte b t) s

/-- R82 row 1, R131: SYNC_HIT. -/
def execSyncHit (s : State) : Result :=
  if s.pstate = .awaitSync then .next { s with pstate := .readLen } else .fault .inputClassNotSelected

/-- R82 row 2, R131: SYNC_MISS; the byte is discarded and changes no state. -/
def execSyncMiss (b : Byte) (s : State) : Result :=
  if s.pstate = .awaitSync ∧ b ≠ syncByte then .next s else .fault .inputClassNotSelected

/-- R82 row 3, R133: LEN_ZERO; an empty body ends the frame at the length byte. -/
def execLenZero (s : State) : Result :=
  if s.pstate = .readLen then .next { s with flen := 0, cursor := 0, pstate := .awaitSync }
  else .fault .inputClassNotSelected

/-- R82 row 4, R133: LEN. -/
def execLen (b : Byte) (s : State) : Result :=
  if s.pstate = .readLen ∧ b ≠ 0 then .next { s with flen := b, cursor := 0, pstate := .readPayload }
  else .fault .inputClassNotSelected

/-- R82 row 5, R132: BODY. -/
def execBody (b : Byte) (s : State) : Result :=
  if s.pstate = .readPayload then .next (bodyByte b s) else .fault .inputClassNotSelected

/-- R72, R132: TYPE_ACCEPT; the type is latched and the type byte captured into PB[0]. -/
def execTypeAccept (s : State) : Result :=
  if s.pstate = .readPayload ∧ s.cursor = 0 then
    .next (advanceCursor (captureByte 0 acceptType { s with ptype := acceptType }))
  else .fault .inputClassNotSelected

/-- R72, R132, R140: TYPE_OTHER; the type is latched and nothing is captured. -/
def execTypeOther (t : Byte) (s : State) : Result :=
  if s.pstate = .readPayload ∧ s.cursor = 0 ∧ t ≠ acceptType then .next (advanceCursor { s with ptype := t })
  else .fault .inputClassNotSelected

end Sys2Proof.Machine
end

