-- ==== Sys2Proof/Machine/Scheduler.lean ====
section
/-! DEFINITION. The periodic scheduler and the tick sequencer (41_scheduler.md): TINC, TACK, DSNAP, PSTEP, DEND. -/

namespace Sys2Proof.Machine

/-- R110: the counter advances, and the incremented value is compared with the alarm. -/
def timerTick (s : State) : State :=
  if s.armed ∧ s.count + 1 = s.alarm then { s with count := s.count + 1, pending := true, armed := false }
  else { s with count := s.count + 1 }

/-- R110: `TINC`. -/
def execTinc (s : State) : Result := .next (timerTick s)

/-- R112: `TACK`. -/
def execTack (s : State) : Result :=
  if tackEnabled s then .next (acknowledgeTick s) else .fault .tackNotEnabled

/-- R113: `DSNAP`. -/
def execDsnap (s : State) : Result :=
  if dsnapEnabled s then intakeSnapshot s else .fault .dsnapNotEnabled

/-- R114: `PSTEP`: the head of WQ is removed and given to `ParseByte`, in this same step. -/
def execPstep (s : State) : Result :=
  if s.tph = .parsing then
    match s.wq with
    | [] => .fault .pstepNotEnabled
    | b :: rest => .next (parseByte b { s with wq := rest })
  else .fault .pstepNotEnabled

/-- R115: `DEND`. -/
def execDend (s : State) : Result :=
  if dendEnabled s then .next (endTick s) else .fault .dendNotEnabled

end Sys2Proof.Machine
end

