-- ==== Sys2Proof/Machine/Dispatch.lean ====
section
/-! DEFINITION. The dispatcher: one arm per row of spec/opcode_table.json. -/

namespace Sys2Proof.Machine

def exec (i : Instr) (s : State) : Host.Outcome State Fault Refusal :=
  match i with
  | .rxb b => Sys2Proof.Machine.execRxb b s
  | .tinc => Sys2Proof.Machine.execTinc s
  | .tack => Sys2Proof.Machine.execTack s
  | .dsnap => Sys2Proof.Machine.execDsnap s
  | .pstep => Sys2Proof.Machine.execPstep s
  | .dend => Sys2Proof.Machine.execDend s
  | .brd off => Sys2Proof.Machine.execBrd off s
  | .bwr off data => Sys2Proof.Machine.execBwr off data s
  | .rst => Sys2Proof.Machine.execRst s
  | .syncHit => Sys2Proof.Machine.execSyncHit s
  | .syncMiss b => Sys2Proof.Machine.execSyncMiss b s
  | .lenZero => Sys2Proof.Machine.execLenZero s
  | .len b => Sys2Proof.Machine.execLen b s
  | .body b => Sys2Proof.Machine.execBody b s
  | .typeAccept => Sys2Proof.Machine.execTypeAccept s
  | .typeOther t => Sys2Proof.Machine.execTypeOther t s

end Sys2Proof.Machine
end

