-- ==== Sys2Proof/Machine/Step.lean ====
section
/-! DEFINITION. One step of the machine: the next operation of the run is taken from the agents' supply, decoded, and
run. CORE has no program counter and fetches no instructions (10_state.md R21); the order of `events` is the one total
order of steps of a run (20_memory.md R62). -/

namespace Sys2Proof.Machine

/-- R10, R11, R79: one atomic operation of one agent. -/
def step (s : State) : Host.Outcome State Fault Refusal :=
  match takeEvent s with
  | none => .fault .noOperation
  | some (w, t) =>
    match decodeEvent w with
    | .error e => .refused (refusalOf e)
    | .ok i => exec i t

/-- The word is placed where the next step takes its operation from. A parser input word or a type byte is no
operation of its own (R130): it is placed as the parser state and the byte that the next `PSTEP` meets. A word that no
table has is placed as the reserved event word 0 (R79). -/
def State.withFetchWord (s : State) (nbits w : Nat) : State :=
  match tableCode nbits w with
  | some (.event e) => placeEvent e s
  | some (.pin p) => placePin p s
  | some (.typeByte t) => placeType t s
  | none => placeEvent 0 s

end Sys2Proof.Machine
end

