-- ==== Sys2Proof/Machine/Pseudo.lean ====
section
/-! DEFINITION. Sequences of operations and the pseudo-operations of 30_encoding.md R84 with their expansions. -/

namespace Sys2Proof.Machine

/-- R62: a run of operations, each reading the state the previous one left; it stops at the first fault or refusal. -/
def execAll : List Instr → State → Result
  | [], s => .next s
  | i :: rest, s =>
    match exec i s with
    | .next t => execAll rest t
    | .fault r => .fault r
    | .refused r => .refused r

/-- R84: the pseudo-operations, and a plain operation of R83. -/
inductive TraceOp where
  /-- R83: one operation by its mnemonic. -/
  | op (i : Instr)
  /-- R84: `RXS b1, ..., bn`. -/
  | rxs (bs : List Byte)
  /-- R84: `ADV n`. -/
  | adv (n : Nat)
  /-- R84: `WAIT`. -/
  | wait
  /-- R84: `DRAIN`. -/
  | drain
  /-- R84: `TICK`. -/
  | tick
  /-- R84: `FRAME t, d1, ..., dn`. -/
  | frame (t : Byte) (ds : List Byte)
  /-- R84: `CHFRAME c0, ..., c15`. -/
  | chframe (c : Vector Chan 16)
  deriving DecidableEq, Repr

/-- R84: `RXS b1, ..., bn` is `RXB b1` ... `RXB bn`. -/
def rxsOps (bs : List Byte) : List Instr := bs.map .rxb

/-- R84: `ADV n` is n copies of `TINC`. -/
def advOps (n : Nat) : List Instr := List.replicate n .tinc

/-- R84: the count of `WAIT`, `(ALARM - COUNT) mod 2^32`. -/
def waitCount (s : State) : Nat := (s.alarm - s.count).toNat

/-- R84: `DRAIN` where it stands: `DSNAP` puts LEVEL bytes into WQ, so it is `DSNAP`, LEVEL times `PSTEP`, `DEND`. -/
def drainOps (s : State) : List Instr := .dsnap :: (List.replicate s.level .pstep ++ [.dend])

/-- R70, R84: the body of a frame with its check byte, `[t, d1, ..., dn, crc8([t, d1, ..., dn])]`. -/
def frameBody (t : Byte) (ds : List Byte) : List Byte := t :: ds ++ [crc8 (t :: ds)]

/-- R70, R84: the bytes of a frame on the link: sync, length n+2, body. -/
def frameBytes (t : Byte) (ds : List Byte) : List Byte :=
  syncByte :: BitVec.ofNat 8 (ds.length + 2) :: frameBody t ds

/-- R84: the bytes of `CHFRAME c0, ..., c15`. -/
def chframeBytes (c : Vector Chan 16) : List Byte := frameBytes acceptType (pack c).toList

/-- R84: the expansion of a line in the state where it stands; none where the line is not well-formed (`WAIT` with
ARMED = 0; `FRAME` with n > 253). -/
def TraceOp.expand : TraceOp → State → Option (List Instr)
  | .op i, _ => some [i]
  | .rxs bs, _ => some (rxsOps bs)
  | .adv n, _ => some (advOps n)
  | .wait, s => if s.armed then some (advOps (waitCount s)) else none
  | .drain, s => some (drainOps s)
  | .tick, s => some (.tack :: drainOps s)
  | .frame t ds, _ => if ds.length ≤ 253 then some (rxsOps (frameBytes t ds)) else none
  | .chframe c, _ => some (rxsOps (chframeBytes c))

/-- R83, R84: a trace run line by line, each line expanded in the state where it stands; none at a line that is not
well-formed. -/
def runTrace : List TraceOp → State → Option Result
  | [], s => some (.next s)
  | l :: rest, s =>
    match l.expand s with
    | none => none
    | some is =>
      match execAll is s with
      | .next t => runTrace rest t
      | .fault r => some (.fault r)
      | .refused r => some (.refused r)

end Sys2Proof.Machine
end

