-- ==== Sys2Proof/Machine/Trace.lean ====
section
/-! DEFINITION. The trace assembly syntax of 30_encoding.md R83 and R84, read from the characters of one line: a
mnemonic, then operands separated by commas; numbers decimal or 0x hexadecimal; a comment from `;` to the end. -/

namespace Sys2Proof.Machine

/-- A blank character of a line. -/
def isBlank (c : Char) : Bool := c == ' ' || c == '\t' || c == '\r'

/-- The line without its comment (R83: `;` starts a comment to the end of the line). -/
def uncomment (cs : List Char) : List Char := cs.takeWhile (fun c => c != ';')

/-- Blanks removed from both ends. -/
def trimBlanks (cs : List Char) : List Char := ((cs.dropWhile isBlank).reverse.dropWhile isBlank).reverse

/-- The value of a hexadecimal digit; none for any other character. -/
def hexDigit (c : Char) : Option Nat :=
  let n := c.toNat
  if 48 ≤ n ∧ n ≤ 57 then some (n - 48)
  else if 97 ≤ n ∧ n ≤ 102 then some (n - 87)
  else if 65 ≤ n ∧ n ≤ 70 then some (n - 55)
  else none

/-- Digits in a base, most significant first, onto an accumulator. -/
def digits (base : Nat) : Nat → List Char → Option Nat
  | acc, [] => some acc
  | acc, c :: cs =>
    match hexDigit c with
    | some d => if d < base then digits base (acc * base + d) cs else none
    | none => none

/-- R83: a number, decimal or `0x` hexadecimal. -/
def number (cs : List Char) : Option Nat :=
  match cs with
  | [] => none
  | '0' :: 'x' :: [] => none
  | '0' :: 'x' :: ds => digits 16 0 ds
  | ds => digits 10 0 ds

/-- The pieces of a line between commas. -/
def splitCommas : List Char → List (List Char)
  | [] => [[]]
  | c :: cs =>
    match splitCommas cs with
    | [] => [[]]
    | p :: ps => if c == ',' then [] :: p :: ps else (c :: p) :: ps

/-- R83: `[operand {, operand}]`. -/
def operands (cs : List Char) : Option (List Nat) :=
  if trimBlanks cs = [] then some [] else (splitCommas cs).mapM fun p => number (trimBlanks p)

/-- An operand of 8 bits. -/
def byteOf (n : Nat) : Option Byte := if n < 2 ^ 8 then some (BitVec.ofNat 8 n) else none

/-- An offset that BRD and BWR can encode (R77). -/
def offsetOf (n : Nat) : Option Byte := if n < 2 ^ 8 ∧ n % 4 = 0 then some (BitVec.ofNat 8 n) else none

/-- The data operand of BWR, 16 bits (R77). -/
def dataOf (n : Nat) : Option (BitVec 16) := if n < 2 ^ 16 then some (BitVec.ofNat 16 n) else none

/-- A channel operand of CHFRAME, in [0, 2047] (R84). -/
def chanOf (n : Nat) : Option Chan := if n < 2 ^ 11 then some (BitVec.ofNat 11 n) else none

/-- A list of exactly 16 channel values. -/
def channelsOf (cs : List Chan) : Option (Vector Chan 16) :=
  if h : cs.length = 16 then some ⟨cs.toArray, by simpa using h⟩ else none

/-- R83, R84: the line with the mnemonic `m` and the operands `ns`. -/
def traceOpOf (m : List Char) (ns : List Nat) : Option TraceOp :=
  if m = ['R', 'X', 'B'] then
    (match ns with | [b] => (byteOf b).map fun b => .op (.rxb b) | _ => none)
  else if m = ['T', 'I', 'N', 'C'] then (if ns = [] then some (.op .tinc) else none)
  else if m = ['T', 'A', 'C', 'K'] then (if ns = [] then some (.op .tack) else none)
  else if m = ['D', 'S', 'N', 'A', 'P'] then (if ns = [] then some (.op .dsnap) else none)
  else if m = ['P', 'S', 'T', 'E', 'P'] then (if ns = [] then some (.op .pstep) else none)
  else if m = ['D', 'E', 'N', 'D'] then (if ns = [] then some (.op .dend) else none)
  else if m = ['B', 'R', 'D'] then
    (match ns with | [o] => (offsetOf o).map fun o => .op (.brd o) | _ => none)
  else if m = ['B', 'W', 'R'] then
    (match ns with
      | [o, d] =>
        (match offsetOf o, dataOf d with
          | some o, some d => some (.op (.bwr o d))
          | _, _ => none)
      | _ => none)
  else if m = ['R', 'S', 'T'] then (if ns = [] then some (.op .rst) else none)
  else if m = ['R', 'X', 'S'] then (if ns = [] then none else (ns.mapM byteOf).map .rxs)
  else if m = ['A', 'D', 'V'] then (match ns with | [n] => some (.adv n) | _ => none)
  else if m = ['W', 'A', 'I', 'T'] then (if ns = [] then some .wait else none)
  else if m = ['D', 'R', 'A', 'I', 'N'] then (if ns = [] then some .drain else none)
  else if m = ['T', 'I', 'C', 'K'] then (if ns = [] then some .tick else none)
  else if m = ['F', 'R', 'A', 'M', 'E'] then
    (match ns.mapM byteOf with
      | some (t :: ds) => if ds.length ≤ 253 then some (.frame t ds) else none
      | _ => none)
  else if m = ['C', 'H', 'F', 'R', 'A', 'M', 'E'] then
    (match ns.mapM chanOf with
      | some cs => (channelsOf cs).map .chframe
      | none => none)
  else none

/-- What one line of a trace holds. -/
inductive Line where
  /-- nothing but blanks and a comment -/
  | blank
  /-- an event or a pseudo-operation -/
  | event (op : TraceOp)
  /-- no line of the syntax of R83 and R84 -/
  | illFormed
  deriving DecidableEq, Repr

/-- R83: one event per line, `MNEMONIC [operand {, operand}]`. -/
def parseLine (cs : List Char) : Line :=
  let body := trimBlanks (uncomment cs)
  if body = [] then .blank
  else
    match operands (body.dropWhile fun c => !isBlank c) with
    | none => .illFormed
    | some ns =>
      match traceOpOf (body.takeWhile fun c => !isBlank c) ns with
      | none => .illFormed
      | some op => .event op

end Sys2Proof.Machine
end

