-- ==== Sys2Proof/Safety.lean ====
section
/-! DEFINITION. What a safe state and a safe run are, in the terms the statements use: the invariants the spec states of
reachable states (R23, R24, R27, R51, R111, R116), the bytes in flight between the link and the parser (R62), the bytes
a run has received, discarded and parsed, and the channel updates it has made (R242). -/

namespace Sys2Proof.Machine

/-- Every listed index of the intake buffer lies inside it (R22, R51). -/
def Memory.within (n : Nat) (m : Memory) : Bool := m.all fun c => decide (c.1 < n)

/-- The invariants of reachable states: valid parameters (R8), IB in its canonical form and inside its capacity (R22,
R51), LEVEL <= INTAKE_CAP (R23), WQ no longer than INTAKE_CAP and empty outside PARSING (R24, R116), exactly one of ARMED
and PENDING (R111), COUNT != ALARM while armed (R111), CURSOR before FLEN inside a body (R27, R132). -/
structure State.Inv (s : State) : Prop where
  cfgValid : s.cfg.Valid
  ibForm : Memory.wf s.ib = true
  ibWithin : Memory.within s.cfg.intakeCap s.ib = true
  levelBound : s.level ≤ s.cfg.intakeCap
  wqBound : s.wq.length ≤ s.cfg.intakeCap
  wqEmpty : s.tph ≠ .parsing → s.wq = []
  oneOfArmedPending : s.armed = !s.pending
  alarmAhead : s.armed = true → s.count ≠ s.alarm
  cursorBeforeEnd : s.pstate = .readPayload → s.cursor.toNat < s.flen.toNat

/-- R62: the bytes received and not yet given to the parser, oldest first: WQ, then what IB holds. -/
def inFlight (s : State) : List Byte := s.wq ++ intakeHeld s

/-- R84 as one line of a run: the body of a tick with nothing to drain. -/
def emptyTickOps : List Instr := [.tack, .dsnap, .dend]

/-- R117: one tick period with no entry latency: TICK_PERIOD counts, then the tick. -/
def periodOps (c : Config) : List Instr := advOps c.tickPeriod.toNat ++ emptyTickOps

/-- The bytes the `RXB` steps of a sequence of operations receive, in order. -/
def received : List Instr → List Byte
  | [] => []
  | .rxb b :: rest => b :: received rest
  | _ :: rest => received rest

/-- The bytes the `PSTEP` steps of a run of operations from `s` give to the parser, in order. -/
def parsed : List Instr → State → List Byte
  | [], _ => []
  | i :: rest, s =>
    match exec i s with
    | .next t => (if i = .pstep then s.wq.head?.toList else []) ++ parsed rest t
    | _ => []

/-- R62, R100, R101, R186: what one operation does to the sequence of bytes that came in and were not discarded. `RXB`
adds its byte, an overflow first removing the bytes IB held, which came last; `RST` removes the bytes in flight. -/
def kept (i : Instr) (s : State) (bytes : List Byte) : List Byte :=
  match i with
  | .rxb b => (if s.level = s.cfg.intakeCap then bytes.take (bytes.length - s.level) else bytes) ++ [b]
  | .rst => bytes.take (bytes.length - (inFlight s).length)
  | _ => bytes

/-- R62: the bytes that came in before or during a run of operations from `s`, without those that its overflows and
resets discard; `before` are the bytes that came in before it. -/
def survivors : List Instr → State → List Byte → List Byte
  | [], _, before => before
  | i :: rest, s, before =>
    match exec i s with
    | .next t => survivors rest t (kept i s before)
    | _ => before

/-- R242: the channel updates (R137) in a run of operations from `s`: its steps that change CH or FRAME_SEQ. -/
def updates : List Instr → State → Nat
  | [], _ => 0
  | i :: rest, s =>
    match exec i s with
    | .next t => (if t.ch = s.ch ∧ t.frameSeq = s.frameSeq then 0 else 1) + updates rest t
    | _ => 0

end Sys2Proof.Machine
end

