-- ==== Sys2Proof/Certificates/Slice0/Obligations.lean ====
section
/-! DEFINITION. The statements about the model. Each docstring names the rule of spec/ it formalises. A statement about
a next state gives its frame as `t = { s with f := t.f, ... }`: every field not named keeps its value. `events` (the
agents' supply) and `busReads` (what the bus host was returned) are the model's own fields; `cfg` holds the build
parameters. -/

open Sys2Proof Sys2Proof.Machine

/-! ### Encoding -/

/-- R77, R78, R82, R72: decoding the encoding of a well-formed instruction gives it back, at every operand value. -/
def Obligations.DecodeOfEncodeIsTheInstruction : Prop :=
  ∀ i : Instr, i.wellFormed = true → decode (encode i) = .ok i

/-- R77, R78, R82, R72: a word that decodes is the encoding of the instruction it decodes to, which is well formed. -/
def Obligations.EncodeOfDecodeIsTheWord : Prop :=
  ∀ (c : Code) (i : Instr), decode c = .ok i → encode i = c ∧ i.wellFormed = true

/-- R78: a word is decoded exactly when `w & mask = match` for a row of the table, to an operation of that row's
mnemonic, and no other row matches it. -/
def Obligations.EventWordSelectsOneRow : Prop :=
  ∀ w : Word,
    (∃ i r, decodeEvent w = .ok i ∧ r ∈ eventRows ∧ w &&& r.mask = r.value ∧ r.mnemonic = i.mnemonic ∧
      ∀ r' ∈ eventRows, w &&& r'.mask = r'.value → r' = r) ∨
    ((∃ e, decodeEvent w = .error e) ∧ ∀ r ∈ eventRows, w &&& r.mask ≠ r.value)

/-- R79: a reserved OPC, a must-be-zero bit set, or a misaligned BRD or BWR offset: the step is refused. Which
of the two names a refusal bears where both apply is the model's choice (log entry 12). -/
def Obligations.ReservedWordIsRefused : Prop :=
  ∀ (s : State) (w : Word) (rest : List Word), s.events = w :: rest →
    (∀ r ∈ eventRows, w &&& r.mask ≠ r.value) →
      (((eventOpc w).toNat = 0 ∨ (9 ≤ (eventOpc w).toNat ∧ (eventOpc w).toNat ≤ 14)) →
        step s = .refused .reservedEncoding) ∧
      ((eventOpc w = 0x1 ∨ (0x2 ≤ (eventOpc w).toNat ∧ (eventOpc w).toNat ≤ 6) ∨ eventOpc w = 0xF) →
        step s = .refused .reservedEncoding) ∧
      ((eventOpc w = 0x7 ∨ eventOpc w = 0x8) →
        step s = .refused (if (eventByte w).toNat % 4 = 0 then .reservedEncoding else .misaligned))

/-- R78, R82, R72 and the words of 95_test_vectors.md: a few words written out from the encodings. -/
def Obligations.SampleWordsDecode : Prop :=
  decodeEvent 0x100000C8 = .ok (.rxb 0xC8) ∧ decodeEvent 0x20000000 = .ok .tinc ∧
  decodeEvent 0x50000000 = .ok .pstep ∧ decodeEvent 0x70000064 = .ok (.brd 0x64) ∧
  decodeEvent 0x8007FF00 = .ok (.bwr 0x00 0x7FF) ∧ decodeEvent 0xF0000000 = .ok .rst ∧
  decodePin 0x0C8 = .ok .syncHit ∧ decodePin 0x118 = .ok (.len 24) ∧ decodeType 0x28 = .ok (.typeOther 0x28)

/-! ### The step -/

/-- R10, R76: when the next supplied word decodes to `i`, the step is `exec i` on the state with the word taken; with
nothing supplied there is no step (R11), which the model says by a fault. The supply is the model's (log entry 3). -/
def Obligations.StepRunsTheDecodedOperation : Prop :=
  ∀ s : State,
    (∀ w rest i, s.events = w :: rest → decodeEvent w = .ok i → step s = exec i { s with events := rest }) ∧
    (s.events = [] → step s = .fault .noOperation)

/-- R10, R130: a table word placed by `withFetchWord` is what the next step runs: an event word as its operation, a
parser input word or a type byte as the class that the next `PSTEP` meets. How a word is placed is the model's choice (log entries 3 and 8). -/
def Obligations.PlacedWordIsRunNext : Prop :=
  (∀ (s : State) (i : Instr), i.wellFormed = true → i.isEvent = true →
    step (s.withFetchWord 32 (wordOf i).toNat) = exec i s) ∧
  (∀ (s : State) (st : PState) (b : Byte),
    ∃ i, decodePin (pinWord st.code b) = .ok i ∧
      step (s.withFetchWord 16 (pinWord st.code b).toNat) = exec i { s with pstate := st, tph := .parsing }) ∧
  (∀ (s : State) (b : Byte),
    ∃ i, decodeType b = .ok i ∧
      step (s.withFetchWord 8 b.toNat) = exec i { s with pstate := .readPayload, cursor := 0, tph := .parsing })

/-- R62, R76: a run of supplied words is the run of the operations they name, in order, and what is supplied after
them does not change it. The supply is the model's (log entry 3). -/
def Obligations.RunOfSuppliedWordsIsExecAll : Prop :=
  ∀ (is : List Instr) (s : State) (rest : List Word),
    (∀ i ∈ is, i.isEvent = true ∧ i.wellFormed = true) →
    (core.run is.length ({ s with events := is.map wordOf ++ rest } : State) : Result) =
      execAll is { s with events := rest }

/-- R11, R12, R202: in a state of a run, a well-formed operation answers a next state exactly when its guard holds;
otherwise it has no step and the model stops with a fault (log entries 5 and 6). -/
def Obligations.OperationStepsExactlyWhenEnabled : Prop :=
  ∀ (i : Instr) (s : State), i.wellFormed = true → s.Inv →
    (enabled i s = true → ∃ t, exec i s = .next t) ∧ (enabled i s = false → ∃ f, exec i s = .fault f)

/-- R11, R82: the fault by which the model says that an operation, or a parser or type class, has no step (log entries 5
and 6). -/
def Obligations.NotEnabledOperationFaults : Prop :=
  ∀ s : State,
    ((s.pending = false ∨ s.tph ≠ .idle) → exec .tack s = .fault .tackNotEnabled) ∧
    (s.tph ≠ .due → exec .dsnap s = .fault .dsnapNotEnabled) ∧
    ((s.tph ≠ .parsing ∨ s.wq = []) → exec .pstep s = .fault .pstepNotEnabled) ∧
    ((s.tph ≠ .parsing ∨ s.wq ≠ []) → exec .dend s = .fault .dendNotEnabled) ∧
    (∀ i : Instr, i.isEvent = false → enabled i s = false → exec i s = .fault .inputClassNotSelected)

/-! ### Intake path -/

/-- R100, R101: RXB stores the byte at LEVEL, or on a full buffer records the overflow and stores it at index 0. -/
def Obligations.RxbStoresTheByte : Prop :=
  ∀ (s : State) (b : Byte), s.cfg.Valid → Memory.wf s.ib = true → s.level ≤ s.cfg.intakeCap →
    ∃ t, exec (.rxb b) s = .next t ∧
      (s.level < s.cfg.intakeCap →
        t.level = s.level + 1 ∧ Memory.read t.ib s.level = b ∧
        (∀ j, j ≠ s.level → Memory.read t.ib j = Memory.read s.ib j) ∧ t.ovf = s.ovf ∧ t.ovfCnt = s.ovfCnt) ∧
      (s.level = s.cfg.intakeCap →
        t.level = 1 ∧ Memory.read t.ib 0 = b ∧ (∀ j, j ≠ 0 → Memory.read t.ib j = Memory.read s.ib j) ∧
        t.ovf = true ∧ t.ovfCnt = s.ovfCnt + 1) ∧
      t = { s with ib := t.ib, level := t.level, ovf := t.ovf, ovfCnt := t.ovfCnt }

/-- R51: RXB and DSNAP stop by name in a state with LEVEL outside IB, which no run reaches (log entry 7). -/
def Obligations.IndexOutsideTheIntakeFaults : Prop :=
  ∀ (s : State) (b : Byte), s.cfg.intakeCap < s.level →
    exec (.rxb b) s = .fault .indexOutOfRange ∧ (s.tph = .due → exec .dsnap s = .fault .indexOutOfRange)

/-- R100, R101: `n` bytes received into an empty intake buffer overflow it `(n-1) div INTAKE_CAP` times, and what it
then holds is the freshest bytes. -/
def Obligations.BurstKeepsTheFreshestBytes : Prop :=
  ∀ (s : State) (bs : List Byte), s.cfg.Valid → Memory.wf s.ib = true → s.level = 0 →
    bs ≠ [] →
    ∃ t, execAll (rxsOps bs) s = .next t ∧
      t.level = (bs.length - 1) % s.cfg.intakeCap + 1 ∧
      intakeHeld t = bs.drop (bs.length - t.level) ∧
      t.ovfCnt = s.ovfCnt + BitVec.ofNat 32 ((bs.length - 1) / s.cfg.intakeCap) ∧
      t.ovf = (s.ovf || decide (s.cfg.intakeCap < bs.length)) ∧
      t = { s with ib := t.ib, level := t.level, ovf := t.ovf, ovfCnt := t.ovfCnt }

/-! ### Periodic scheduler -/

/-- R110: TINC advances COUNT and, when armed, compares the incremented value with ALARM. -/
def Obligations.TincAdvancesAndMatches : Prop :=
  ∀ s : State, ∃ t, exec .tinc s = .next t ∧ t.count = s.count + 1 ∧
    (s.armed = true → s.count + 1 = s.alarm → t.pending = true ∧ t.armed = false) ∧
    ((s.armed = false ∨ s.count + 1 ≠ s.alarm) → t.pending = s.pending ∧ t.armed = s.armed) ∧
    t = { s with count := t.count, pending := t.pending, armed := t.armed }

/-- R112: TACK acknowledges and rearms from the current COUNT; it has no step without PENDING = 1 and TPH = IDLE. -/
def Obligations.TackAcknowledgesAndRearms : Prop :=
  ∀ s : State,
    (s.pending = true → s.tph = .idle →
      exec .tack s = .next { s with
        pending := false, alarm := s.count + s.cfg.tickPeriod, armed := true, tph := .due }) ∧
    ((s.pending = false ∨ s.tph ≠ .idle) → ∀ t, exec .tack s ≠ .next t)

/-- R84: `WAIT` is well-formed when ARMED = 1, takes at least one TINC, and its last TINC sets PENDING. -/
def Obligations.WaitEndsAtTheAlarm : Prop :=
  ∀ s : State, s.armed = true → s.count ≠ s.alarm →
    ∃ ops, TraceOp.wait.expand s = some ops ∧ 1 ≤ ops.length ∧ (∀ i ∈ ops, i = .tinc) ∧
      execAll ops s = .next { s with count := s.alarm, pending := true, armed := false } ∧
      (∀ n, n < ops.length →
        execAll (ops.take n) s = .next { s with count := s.count + BitVec.ofNat 32 n })

/-- R110, R118: while ARMED = 0 no match occurs, however many counts pass: only COUNT changes, so no second tick is
recorded while one is pending. -/
def Obligations.NoMatchWhileDisarmed : Prop :=
  ∀ (s : State) (n : Nat), s.armed = false →
    execAll (advOps n) s = .next { s with count := s.count + BitVec.ofNat 32 n }

/-- R117: with no entry latency, ticks are acknowledged one TICK_PERIOD apart. -/
def Obligations.TicksComeOnePeriodApart : Prop :=
  ∀ (s : State) (n : Nat), s.cfg.Valid → s.armed = true → s.pending = false → s.tph = .idle → s.level = 0 →
    s.wq = [] → s.alarm = s.count + s.cfg.tickPeriod →
    execAll (List.replicate n (periodOps s.cfg)).flatten s =
      .next { s with
        count := s.count + BitVec.ofNat 32 n * s.cfg.tickPeriod
        alarm := s.count + BitVec.ofNat 32 (n + 1) * s.cfg.tickPeriod }

/-- R231: from reset, the first tick is pending after TICK_PERIOD TINC steps, and not before. -/
def Obligations.FirstTickAfterOnePeriod : Prop :=
  ∀ c : Config, c.Valid → ∀ n, n ≤ c.tickPeriod.toNat →
    ∃ t, execAll (advOps n) (State.resetWith c) = .next t ∧ t.count = BitVec.ofNat 32 n ∧
      (t.pending = true ↔ n = c.tickPeriod.toNat) ∧ t.armed = !t.pending

/-! ### Tick sequencer -/

/-- R113: DSNAP moves IB[0..LEVEL-1] into WQ and empties the buffer, without erasing IB; only in DUE. -/
def Obligations.DsnapTakesTheSnapshot : Prop :=
  ∀ s : State,
    (s.tph = .due → s.level ≤ s.cfg.intakeCap →
      ∃ t, exec .dsnap s = .next t ∧ t.wq.length = s.level ∧
        (∀ j, j < s.level → t.wq[j]? = some (Memory.read s.ib j)) ∧ t.level = 0 ∧ t.tph = .parsing ∧
        t = { s with wq := t.wq, level := t.level, tph := t.tph }) ∧
    (s.tph ≠ .due → ∀ t, exec .dsnap s ≠ .next t)

/-- R114: PSTEP removes the head of WQ and gives it to ParseByte in the same step; only in PARSING with WQ not empty. -/
def Obligations.PstepGivesTheHeadToTheParser : Prop :=
  ∀ s : State,
    (∀ b rest, s.tph = .parsing → s.wq = b :: rest →
      ∃ t, exec .pstep s = .next t ∧ t = parseByte b { s with wq := rest } ∧
        t = { s with
          wq := rest, pstate := t.pstate, flen := t.flen, cursor := t.cursor, ptype := t.ptype, pb := t.pb,
          ch := t.ch, new := t.new, crcErr := t.crcErr, lenErr := t.lenErr, frameSeq := t.frameSeq,
          crcErrCnt := t.crcErrCnt }) ∧
    ((s.tph ≠ .parsing ∨ s.wq = []) → ∀ t, exec .pstep s ≠ .next t)

/-- R115: DEND ends the tick body; only in PARSING with WQ empty. -/
def Obligations.DendEndsTheBody : Prop :=
  ∀ s : State,
    (s.tph = .parsing → s.wq = [] → exec .dend s = .next { s with tph := .idle }) ∧
    ((s.tph ≠ .parsing ∨ s.wq ≠ []) → ∀ t, exec .dend s ≠ .next t)

/-- R116: TPH goes IDLE, DUE, PARSING, IDLE, by TACK, DSNAP and DEND; nothing else but RST changes it. -/
def Obligations.TickPhasesInOrder : Prop :=
  ∀ (i : Instr) (s t : State), i ≠ .rst → exec i s = .next t →
    (t.tph = s.tph ∧ i ≠ .tack ∧ i ≠ .dsnap ∧ i ≠ .dend) ∨ (i = .tack ∧ s.tph = .idle ∧ t.tph = .due) ∨
    (i = .dsnap ∧ s.tph = .due ∧ t.tph = .parsing) ∨ (i = .dend ∧ s.tph = .parsing ∧ t.tph = .idle)

/-- R119: a drain that finds LEVEL = 0 changes only TPH. -/
def Obligations.EmptyDrainChangesOnlyThePhase : Prop :=
  ∀ s : State, s.Inv → s.tph = .due → s.level = 0 → execAll [.dsnap, .dend] s = .next { s with tph := .idle }

/-- R84, R113-R115: the tick body parses every byte the intake held, in order, and ends in IDLE. -/
def Obligations.DrainParsesTheHeldBytesInOrder : Prop :=
  ∀ s : State, s.tph = .due → s.level ≤ s.cfg.intakeCap →
    execAll (drainOps s) s =
      .next { parseBytes (intakeHeld s) s with level := 0, wq := [], tph := .idle }

/-- R135: the outcome of parsing does not depend on how the bytes are split between drains: two drains of `a` and `b`
leave CORE as one drain of `a ++ b` does, but for the timer's times and the unreadable bytes of IB. -/
def Obligations.ParsingIsIndependentOfDrainSplit : Prop :=
  ∀ (s : State) (a b : List Byte), s.Inv → s.tph = .due → s.armed = true → s.level = 0 →
    (a ++ b).length ≤ s.cfg.intakeCap →
    ∃ t u, runTrace [.rxs (a ++ b), .drain] s = some (.next t) ∧
      runTrace [.rxs a, .drain, .wait, .op .tack, .rxs b, .drain] s = some (.next u) ∧
      u = { t with ib := u.ib, count := u.count, alarm := u.alarm }

/-! ### Frame parser -/

/-- R82, R72: an input word selects the first row of R82 that matches it, and PIN[9:8] = 11 selects none; a type byte
selects the first row of R72; and a PSTEP is the meaning of the class its byte selects. -/
def Obligations.PstepIsItsInputClass : Prop :=
  (∀ p : BitVec 10,
    (decodePin p).toOption.map Instr.mnemonic = (pinRows.find? fun r => p &&& r.2.2 = r.2.1).map fun r => r.1) ∧
  (∀ b : Byte,
    (decodeType b).toOption.map Instr.mnemonic = (typeRows.find? fun r => b &&& r.2.2 = r.2.1).map fun r => r.1) ∧
  (∀ (s : State) (b : Byte) (rest : List Byte), s.tph = .parsing → s.wq = b :: rest →
    ∃ i, decodePin (parserInput s b) = .ok i ∧ exec .pstep s = exec i { s with wq := rest }) ∧
  (∀ p : BitVec 10, p.extractLsb' 8 2 = 3 → decodePin p = .error .noInputClass)

/-- R131: in AWAIT_SYNC the sync byte starts a frame and any other byte is discarded, changing no state. -/
def Obligations.SyncIsRecognisedOnlyInAwaitSync : Prop :=
  ∀ (s : State) (b : Byte),
    (s.pstate = .awaitSync →
      exec .syncHit s = .next { s with pstate := .readLen } ∧ (b ≠ 0xC8 → exec (.syncMiss b) s = .next s) ∧
      parseByte b s = if b = 0xC8 then { s with pstate := .readLen } else s) ∧
    (s.pstate ≠ .awaitSync →
      ∀ t, exec .syncHit s ≠ .next t ∧ exec (.syncMiss b) s ≠ .next t)

/-- R133: in READ_LEN the byte, whatever it is, becomes FLEN and CURSOR becomes 0; a length of 0 ends the frame. -/
def Obligations.LengthByteStartsTheBody : Prop :=
  ∀ (s : State) (b : Byte), s.pstate = .readLen →
    exec .lenZero s = .next { s with flen := 0, cursor := 0, pstate := .awaitSync } ∧
    (b ≠ 0 → exec (.len b) s = .next { s with flen := b, cursor := 0, pstate := .readPayload }) ∧
    parseByte b s = { s with flen := b, cursor := 0, pstate := if b = 0 then .awaitSync else .readPayload }

/-- R132: one body byte: the type is latched at CURSOR = 0, an accepted-type byte is captured below index 24, CURSOR
advances, and the frame ends when it reaches FLEN. -/
def Obligations.BodyByteIsCapturedAndCounted : Prop :=
  ∀ (s : State) (b : Byte), s.pstate = .readPayload → s.cursor.toNat < s.flen.toNat →
    ∃ t, exec (.body b) s = .next t ∧
      t.ptype = (if s.cursor = 0 then b else s.ptype) ∧
      ((t.ptype = 0x16 ∧ s.cursor.toNat < 24) →
        t.pb[s.cursor.toNat]? = some b ∧ ∀ j, j ≠ s.cursor.toNat → t.pb[j]? = s.pb[j]?) ∧
      ((t.ptype ≠ 0x16 ∨ 24 ≤ s.cursor.toNat) → t.pb = s.pb) ∧
      t.cursor.toNat = s.cursor.toNat + 1 ∧
      (t.cursor = s.flen → t.pstate = .awaitSync) ∧
      (t.cursor ≠ s.flen → t = { s with ptype := t.ptype, pb := t.pb, cursor := t.cursor }) ∧
      t = { s with
        pstate := t.pstate, ptype := t.ptype, pb := t.pb, cursor := t.cursor, ch := t.ch, new := t.new,
        crcErr := t.crcErr, lenErr := t.lenErr, frameSeq := t.frameSeq, crcErrCnt := t.crcErrCnt }

/-- R132, R136 to R140: what the body byte that ends a frame records, by the frame's type, length and CRC. PTYPE, PB and
CURSOR are those of R132; nothing else changes. -/
def Obligations.FrameCompletionRecordsOneOutcome : Prop :=
  ∀ (s : State) (b : Byte), s.pstate = .readPayload → s.cursor + 1 = s.flen →
    ∃ t, exec (.body b) s = .next t ∧ t.pstate = .awaitSync ∧ t.cursor = s.cursor + 1 ∧
      t.ptype = (if s.cursor = 0 then b else s.ptype) ∧
      t.pb = (if t.ptype = 0x16 ∧ s.cursor.toNat < 24 then s.pb.setIfInBounds s.cursor.toNat b else s.pb) ∧
      (t.ptype ≠ 0x16 →
        t = { s with pstate := t.pstate, ptype := t.ptype, cursor := t.cursor }) ∧
      (t.ptype = 0x16 → s.flen ≠ 24 →
        t = { s with pstate := t.pstate, ptype := t.ptype, cursor := t.cursor, pb := t.pb, lenErr := true }) ∧
      (t.ptype = 0x16 → s.flen = 24 → crc8 t.pb.toList = 0 →
        t = { s with
          pstate := t.pstate, ptype := t.ptype, cursor := t.cursor, pb := t.pb
          ch := unpack (dataBytesOf t.pb), frameSeq := s.frameSeq + 1, new := true }) ∧
      (t.ptype = 0x16 → s.flen = 24 → crc8 t.pb.toList ≠ 0 →
        t = { s with
          pstate := t.pstate, ptype := t.ptype, cursor := t.cursor, pb := t.pb
          crcErr := true, crcErrCnt := s.crcErrCnt + 1 })

/-- R72, R132, R140: the type byte, at CURSOR = 0: the accepted type is latched and captured into PB[0], another type
is latched and nothing is captured; with FLEN = 1 the frame also ends. Each is what BODY does on that byte. -/
def Obligations.TypeByteSelectsCapture : Prop :=
  ∀ s : State, s.pstate = .readPayload → s.cursor = 0 →
    (∃ t, exec .typeAccept s = .next t ∧ exec (.body 0x16) s = .next t ∧ t.ptype = 0x16 ∧ t.cursor = 1 ∧
      t.pb[0] = 0x16 ∧ (∀ j, j ≠ 0 → t.pb[j]? = s.pb[j]?) ∧
      (s.flen = 1 → t.pstate = .awaitSync ∧ t.lenErr = true) ∧
      (s.flen ≠ 1 → t.pstate = .readPayload ∧ t.lenErr = s.lenErr) ∧
      t = { s with ptype := t.ptype, cursor := t.cursor, pb := t.pb, pstate := t.pstate, lenErr := t.lenErr }) ∧
    (∀ b : Byte, b ≠ 0x16 →
      ∃ t, exec (.typeOther b) s = .next t ∧ exec (.body b) s = .next t ∧ t.ptype = b ∧ t.cursor = 1 ∧
        t.pstate = (if s.flen = 1 then .awaitSync else .readPayload) ∧
        t = { s with ptype := t.ptype, cursor := t.cursor, pstate := t.pstate })

/-- R137, R163, R172: end to end: sixteen channel values sent as one frame into an empty intake and drained are the
channel array afterwards, whatever CORE held before, PB holds exactly the frame's own body, and one update is
recorded. -/
def Obligations.ValidFrameIsDecodedEndToEnd : Prop :=
  ∀ (s : State) (c : Vector Chan 16), s.cfg.Valid → Memory.wf s.ib = true → s.tph = .due →
    s.pstate = .awaitSync → s.level = 0 → 26 ≤ s.cfg.intakeCap →
    ∃ t, runTrace [.chframe c, .drain] s = some (.next t) ∧ t.ch = c ∧ t.frameSeq = s.frameSeq + 1 ∧
      t.new = true ∧ t.pstate = .awaitSync ∧ t.level = 0 ∧ t.wq = [] ∧ t.tph = .idle ∧
      t.pb.toList = 0x16 :: (pack c).toList ++ [crc8 (0x16 :: (pack c).toList)] ∧
      t = { s with
        ib := t.ib, wq := [], tph := .idle, flen := 24, cursor := 24, ptype := 0x16, pb := t.pb, ch := c
        new := true, frameSeq := s.frameSeq + 1 }

/-- R138: an accepted-type, right-length frame whose check byte is not the CRC of its body leaves the channels at
their last values, is recorded, and leaves the parser in AWAIT_SYNC. -/
def Obligations.CorruptedFrameLeavesChannels : Prop :=
  ∀ (s : State) (ds : List Byte) (x : Byte), s.pstate = .awaitSync → ds.length = 22 → x ≠ crc8 (0x16 :: ds) →
    ∃ t, parseBytes (0xC8 :: 24 :: 0x16 :: (ds ++ [x])) s = t ∧ t.pb.toList = 0x16 :: (ds ++ [x]) ∧
      t = { s with
        flen := 24, cursor := 24, ptype := 0x16, pb := t.pb, crcErr := true, crcErrCnt := s.crcErrCnt + 1 }

/-- R140: a frame of any other type, of any length and with any bytes, is consumed with no effect beyond the parser's
registers: no flag, no counter, no byte of PB, no channel. -/
def Obligations.OtherTypeFrameIsConsumedSilently : Prop :=
  ∀ (s : State) (ty : Byte) (bs : List Byte), s.pstate = .awaitSync → ty ≠ 0x16 → bs.length ≤ 254 →
    parseBytes (0xC8 :: BitVec.ofNat 8 (bs.length + 1) :: ty :: bs) s =
      { s with
        flen := BitVec.ofNat 8 (bs.length + 1), cursor := BitVec.ofNat 8 (bs.length + 1), ptype := ty }

/-- R139: an accepted-type frame of a wrong length, with any bytes, captures its first bytes up to 24, is not
validated, and sets LENERR only. -/
def Obligations.WrongLengthFrameIsNotValidated : Prop :=
  ∀ (s : State) (bs : List Byte), s.pstate = .awaitSync → bs.length ≤ 254 → bs.length ≠ 23 →
    ∃ t, parseBytes (0xC8 :: BitVec.ofNat 8 (bs.length + 1) :: 0x16 :: bs) s = t ∧
      t.pb.toList = (0x16 :: bs).take 24 ++ s.pb.toList.drop (bs.length + 1) ∧
      t = { s with
        flen := BitVec.ofNat 8 (bs.length + 1), cursor := BitVec.ofNat 8 (bs.length + 1), ptype := 0x16
        pb := t.pb, lenErr := true }

/-- R206: a PSTEP completes at most one frame, so it records at most one of an update, a CRC mismatch and a length
error. -/
def Obligations.PstepRecordsAtMostOneEvent : Prop :=
  ∀ s t : State, exec .pstep s = .next t →
    (t.ch = s.ch ∧ t.frameSeq = s.frameSeq ∧ t.new = s.new ∧ t.crcErrCnt = s.crcErrCnt ∧ t.crcErr = s.crcErr ∧
      t.lenErr = s.lenErr) ∨
    (t.frameSeq = s.frameSeq + 1 ∧ t.new = true ∧ t.crcErrCnt = s.crcErrCnt ∧ t.crcErr = s.crcErr ∧
      t.lenErr = s.lenErr ∧ t.pstate = .awaitSync) ∨
    (t.ch = s.ch ∧ t.frameSeq = s.frameSeq ∧ t.new = s.new ∧ t.crcErrCnt = s.crcErrCnt + 1 ∧ t.crcErr = true ∧
      t.lenErr = s.lenErr ∧ t.pstate = .awaitSync) ∨
    (t.ch = s.ch ∧ t.frameSeq = s.frameSeq ∧ t.new = s.new ∧ t.crcErrCnt = s.crcErrCnt ∧ t.crcErr = s.crcErr ∧
      t.lenErr = true ∧ t.pstate = .awaitSync)

/-! ### CRC-8 and the unpacker -/

/-- R160, R161, R162: CrcShift shifts left by one and, exactly when bit 7 was set, exclusive-ORs the polynomial;
CrcByte is eight such steps of r ^ b; crc8 starts at zero, takes the bytes in order with no final step, keeps zero on
zero bytes, and ignores leading zero bytes. -/
def Obligations.CrcOfASpan : Prop :=
  (∀ r p : Byte, (crcShift r p).toNat =
    if 0x80 ≤ r.toNat then ((r.toNat * 2) % 256) ^^^ p.toNat else (r.toNat * 2) % 256) ∧
  (∀ r b p : Byte, crcByte r b p = Nat.repeat (fun x => crcShift x p) 8 (r ^^^ b)) ∧
  crc8 [] = 0 ∧ (∀ (p : List Byte) (b : Byte), crc8 (p ++ [b]) = crcByte (crc8 p) b 0xD5) ∧
  (∀ n : Nat, crc8 (List.replicate n 0) = 0) ∧ (∀ p : List Byte, crc8 (0 :: p) = crc8 p)

/-- R163: the append property, for every byte sequence. -/
def Obligations.CrcAppendProperty : Prop :=
  ∀ p : List Byte, crc8 (p ++ [crc8 p]) = 0

/-- R164: the zero-residue check and the comparison with the check byte give the same verdict, for any sequence and
for the 24 bytes of PB. -/
def Obligations.CrcZeroResidueIffCheckByte : Prop :=
  (∀ (p : List Byte) (b : Byte), crc8 (p ++ [b]) = 0 ↔ b = crc8 p) ∧
  (∀ pb : Vector Byte 24, crc8 pb.toList = 0 ↔ pb[23] = crc8 (pb.toList.take 23))

/-- R166: crc8 is linear on equal-length sequences, a single flipped bit in a span changes its crc8, and for every x
exactly one last byte gives it. -/
def Obligations.CrcAlgebraicProperties : Prop :=
  (∀ s t : List Byte, s.length = t.length → crc8 (List.zipWith (· ^^^ ·) s t) = crc8 s ^^^ crc8 t) ∧
  (∀ (p q : List Byte) (b : Byte) (k : Nat), k < 8 →
    crc8 (p ++ (b ^^^ (1#8 <<< k)) :: q) ≠ crc8 (p ++ b :: q)) ∧
  (∀ (p : List Byte) (x : Byte), ∃ b, crc8 (p ++ [b]) = x ∧ ∀ b', crc8 (p ++ [b']) = x → b' = b)

/-- R52, R171: bit j of channel k is bit (11k+j) mod 8 of data byte (11k+j) div 8, and
CH[k] = (W >> 11k) & 0x7FF with W = sum of D[j] << 8j. -/
def Obligations.UnpackerReadsTheLittleEndianBitstream : Prop :=
  ∀ d : Vector Byte 22,
    (∀ k j, k < 16 → j < 11 →
      ((unpack d).getD k 0).getLsbD j = (d.getD ((11 * k + j) / 8) 0).getLsbD ((11 * k + j) % 8)) ∧
    (∀ k, k < 16 →
      ((unpack d).getD k 0).toNat =
        (((List.range 22).map fun j => (d.getD j 0).toNat <<< (8 * j)).sum >>> (11 * k)) &&& 0x7FF)

/-- R172: pack(c)[j] = (W >> 8j) & 0xFF with W = sum of c[k] << 11k, and unpacking it gives the channels back. -/
def Obligations.UnpackOfPackIsTheChannels : Prop :=
  ∀ c : Vector Chan 16,
    (∀ j, j < 22 → ((pack c).getD j 0).toNat =
      (((List.range 16).map fun k => (c.getD k 0).toNat <<< (11 * k)).sum >>> (8 * j)) &&& 0xFF) ∧
    unpack (pack c) = c

/-! ### Bus interface and reset -/

/-- R181: `RegRead(off)`, the value of the register at each aligned offset, with the codes of PSTATE and TPH as R25 and
R38 number them. -/
def Obligations.RegReadGivesTheRegister : Prop :=
  ∀ (s : State) (off : Byte), off.toNat % 4 = 0 →
    ∃ v, regRead s off = v ∧
      (off.toNat ≤ 0x3C → v.toNat = (s.ch.getD (off.toNat / 4) 0).toNat) ∧
      (off = 0x40 → v.toNat = s.new.toNat + 2 * s.crcErr.toNat + 4 * s.ovf.toNat + 8 * s.lenErr.toNat) ∧
      (off = 0x44 → v = s.frameSeq) ∧ (off = 0x48 → v = s.crcErrCnt) ∧ (off = 0x4C → v = s.ovfCnt) ∧
      (off = 0x50 → v = s.cursor ++ s.ptype ++ s.flen ++ 0#6 ++
        (match s.pstate with | .awaitSync => 0 | .readLen => 1 | .readPayload => 2 : BitVec 2)) ∧
      (off = 0x54 → v = BitVec.ofNat 32 s.level) ∧ (off = 0x58 → v = s.count) ∧ (off = 0x5C → v = s.alarm) ∧
      (off = 0x60 → v.toNat = s.armed.toNat + 2 * s.pending.toNat +
        4 * (match s.tph with | .idle => 0 | .due => 1 | .parsing => 2)) ∧
      (off = 0x64 → v = 0x18D516C8) ∧ (off = 0x68 → v = BitVec.ofNat 32 s.cfg.intakeCap) ∧
      (off = 0x6C → v = s.cfg.tickPeriod) ∧
      (∀ j, j < 6 → off.toNat = 0x80 + 4 * j →
        v = s.pb.getD (4 * j + 3) 0 ++ s.pb.getD (4 * j + 2) 0 ++ s.pb.getD (4 * j + 1) 0 ++ s.pb.getD (4 * j) 0) ∧
      (((0x70 ≤ off.toNat ∧ off.toNat ≤ 0x7C) ∨ 0x98 ≤ off.toNat) → v = 0)

/-- R183, R184: a write to STATUS clears the flags whose bit is 1; a write to any other offset has no effect. -/
def Obligations.BwrClearsStatusBits : Prop :=
  ∀ (s : State) (off : Byte) (data : BitVec 16), off.toNat % 4 = 0 →
    ∃ t, exec (.bwr off data) s = .next t ∧
      (off = 0x40 → ∀ f : StatusFlag, t.flag f = (s.flag f && !data.getLsbD f.bit)) ∧ (off ≠ 0x40 → t = s) ∧
      t = { s with new := t.new, crcErr := t.crcErr, ovf := t.ovf, lenErr := t.lenErr }

/-- R56: a BRD or BWR with off mod 4 != 0 is refused and has no effect. -/
def Obligations.MisalignedBusAccessIsRefused : Prop :=
  ∀ (s : State) (off : Byte) (data : BitVec 16), off.toNat % 4 ≠ 0 →
    exec (.brd off) s = .refused .misaligned ∧ exec (.bwr off data) s = .refused .misaligned

/-- R182, R59: BRD returns `RegRead(off)` and changes nothing else, so a second read returns the same; and a second
identical write changes nothing more. The returned values are in `busReads`, the model's own field (log entry 4). -/
def Obligations.BusAccessIsIdempotent : Prop :=
  ∀ (s : State) (off : Byte) (data : BitVec 16), off.toNat % 4 = 0 →
    exec (.brd off) s = .next { s with busReads := regRead s off :: s.busReads } ∧
    execAll [.brd off, .brd off] s = .next { s with busReads := regRead s off :: regRead s off :: s.busReads } ∧
    execAll [.bwr off data, .bwr off data] s = execAll [.bwr off data] s

/-- R180, R185: no operation of the bus host changes the decoder: only STATUS flags, and those only to 0.
`busReads` is the model's own field (log entry 4). -/
def Obligations.BusHostOnlyClearsFlags : Prop :=
  ∀ (i : Instr) (s t : State), i.agent = .busHost → exec i s = .next t →
    (∀ f : StatusFlag, t.flag f = true → s.flag f = true) ∧
    t = { s with new := t.new, crcErr := t.crcErr, ovf := t.ovf, lenErr := t.lenErr, busReads := t.busReads }

/-- R186, R41: RST gives every element its reset value in one step, in any state. -/
def Obligations.RstRestoresEveryElement : Prop :=
  ∀ s : State, ∃ t, exec .rst s = .next t ∧
    (∀ j, Memory.read t.ib j = 0) ∧ t.level = 0 ∧ t.wq = [] ∧ t.pstate = .awaitSync ∧ t.flen = 0 ∧ t.cursor = 0 ∧
    t.ptype = 0 ∧ (∀ j, j < 24 → t.pb[j]? = some 0) ∧ (∀ k, k < 16 → t.ch[k]? = some 0) ∧
    (∀ f : StatusFlag, t.flag f = false) ∧ t.frameSeq = 0 ∧ t.crcErrCnt = 0 ∧ t.ovfCnt = 0 ∧ t.count = 0 ∧
    t.alarm = s.cfg.tickPeriod ∧ t.armed = true ∧ t.pending = false ∧ t.tph = .idle

/-- R80 (reset column), R230: what each register of the window reads in the reset state, for every block. The value
read is in `busReads`, the model's own field (log entry 4). -/
def Obligations.RegistersAtReset : Prop :=
  ∀ (c : Config) (off : Byte), off.toNat % 4 = 0 →
    exec (.brd off) (State.resetWith c) = .next { State.resetWith c with busReads := [
      if off = 0x5C then c.tickPeriod else if off = 0x60 then 1 else if off = 0x64 then 0x18D516C8
      else if off = 0x68 then BitVec.ofNat 32 c.intakeCap else if off = 0x6C then c.tickPeriod else 0] }

/-! ### Whole-machine rules -/

/-- R111, R116, R23, R27, R51: the invariants hold in the reset state of every block with valid parameters, and
in `State.reset`, whose INTAKE_CAP is the model's choice (log entry 2). -/
def Obligations.ResetStateMeetsTheInvariants : Prop :=
  (∀ c : Config, c.Valid → (State.resetWith c).Inv) ∧ State.reset.Inv

/-- R111, R116, R23, R24, R27, R51: every operation, and every step, keeps the invariants. -/
def Obligations.EveryStepKeepsTheInvariants : Prop :=
  (∀ (i : Instr) (s t : State), s.Inv → exec i s = .next t → t.Inv) ∧
  (∀ s t : State, s.Inv → step s = .next t → t.Inv)

/-- R40: no operation writes the parameters, and CONFIG0 to CONFIG2 read them back. -/
def Obligations.ParametersAreConstant : Prop :=
  (∀ (i : Instr) (s t : State), exec i s = .next t → t.cfg = s.cfg) ∧
  (∀ s : State,
    regRead s 0x64 = expectLen ++ poly ++ acceptType ++ syncByte ∧
    regRead s 0x68 = BitVec.ofNat 32 s.cfg.intakeCap ∧ regRead s 0x6C = s.cfg.tickPeriod)

/-- R31: a set flag is cleared only by RST or by a BWR to STATUS with a 1 in its bit. -/
def Obligations.StatusFlagsAreSticky : Prop :=
  ∀ (i : Instr) (s t : State) (f : StatusFlag), exec i s = .next t → s.flag f = true → t.flag f = false →
    i = .rst ∨ ∃ data : BitVec 16, i = .bwr 0x40 data ∧ data.getLsbD f.bit = true

/-- R32, R201: but for RST, an operation adds to each counter 0, or 1 together with setting its flag. -/
def Obligations.CountersAdvanceWithTheirFlags : Prop :=
  ∀ (i : Instr) (s t : State), i ≠ .rst → exec i s = .next t →
    (t.frameSeq = s.frameSeq ∨ (t.frameSeq = s.frameSeq + 1 ∧ t.new = true)) ∧
    (t.crcErrCnt = s.crcErrCnt ∨ (t.crcErrCnt = s.crcErrCnt + 1 ∧ t.crcErr = true)) ∧
    (t.ovfCnt = s.ovfCnt ∨ (t.ovfCnt = s.ovfCnt + 1 ∧ t.ovf = true ∧ s.level = s.cfg.intakeCap))

/-- R10, R20, R50, R104: which agent's operations write which state: IB and LEVEL by RXB and DSNAP alone, the parser,
PB, CH and WQ by the tick sequencer alone, COUNT by TINC alone, ALARM by TACK alone; RST apart. Of the model's own fields (log entries 3, 4 and
17), `events` is written by no operation and `busReads` by BRD alone, RST included. -/
def Obligations.EachElementHasItsWriters : Prop :=
  (∀ (i : Instr) (s t : State), exec i s = .next t →
    t.events = s.events ∧ (t.busReads ≠ s.busReads → ∃ off, i = .brd off)) ∧
  ∀ (i : Instr) (s t : State), i ≠ .rst → exec i s = .next t →
    (t.ib ≠ s.ib → ∃ b, i = .rxb b) ∧ (t.level ≠ s.level → (∃ b, i = .rxb b) ∨ i = .dsnap) ∧
    ((t.wq ≠ s.wq ∨ t.pstate ≠ s.pstate ∨ t.flen ≠ s.flen ∨ t.cursor ≠ s.cursor ∨ t.ptype ≠ s.ptype ∨ t.pb ≠ s.pb ∨
      t.ch ≠ s.ch) → i.agent = .tickSequencer) ∧
    (t.count ≠ s.count → i = .tinc) ∧ (t.alarm ≠ s.alarm → i = .tack) ∧
    ((t.armed ≠ s.armed ∨ t.pending ≠ s.pending) → i = .tinc ∨ i = .tack)

/-- R30, R137, R242: over any run without RST, if FRAME_SEQ reads the same at both ends, the number of updates is a
multiple of 2^32, and with fewer than 2^32 updates the channel array was the same all along. -/
def Obligations.FrameSeqProtocolGivesOneFrame : Prop :=
  ∀ (is : List Instr) (s t : State), .rst ∉ is → execAll is s = .next t → t.frameSeq = s.frameSeq →
    2 ^ 32 ∣ updates is s ∧
    (updates is s < 2 ^ 32 → ∀ n u, execAll (is.take n) s = .next u → u.ch = s.ch)

/-- R62, R101, R104, R241: one operation's effect on the bytes in flight: RXB adds its byte at the end (an overflow
first drops what IB held), PSTEP takes the oldest, and nothing else, DSNAP included, loses, adds or reorders one. -/
def Obligations.BytesInFlightAreConserved : Prop :=
  ∀ (i : Instr) (s t : State), s.Inv → i.isEvent = true → i ≠ .rst → exec i s = .next t →
    (∀ b, i = .rxb b →
      inFlight t = (if s.level = s.cfg.intakeCap then s.wq else inFlight s) ++ [b]) ∧
    (i = .pstep → ∃ b, s.wq.head? = some b ∧ inFlight s = b :: inFlight t) ∧
    ((∀ b, i ≠ .rxb b) → i ≠ .pstep → inFlight t = inFlight s)

/-- R62, R101, R186: over any run of operations, the bytes given to the parser, followed by those still in flight, are
the bytes in flight at the start and those received, in order, with exactly the bytes its overflows and resets discard
removed. Without RST and without overflow that is: the bytes in flight at the start, then all those received. -/
def Obligations.ParserSeesTheReceivedBytesInOrder : Prop :=
  ∀ (is : List Instr) (s t : State), s.Inv → (∀ i ∈ is, i.isEvent = true) → execAll is s = .next t →
    parsed is s ++ inFlight t = survivors is s (inFlight s) ∧
    (is.length < 2 ^ 32 → .rst ∉ is → t.ovfCnt = s.ovfCnt →
      parsed is s ++ inFlight t = inFlight s ++ received is)

/-- R205, R208: a byte arriving inside a tick body does not disturb it: RXB and PSTEP commute. -/
def Obligations.ArrivalCommutesWithParsing : Prop :=
  ∀ (s : State) (b : Byte), s.Inv → s.tph = .parsing → s.wq ≠ [] →
    ∃ t, execAll [.rxb b, .pstep] s = .next t ∧ execAll [.pstep, .rxb b] s = .next t
end

