-- ==== Sys2Proof/Laws/State.lean ====
section
/-! SUPPORT. One lemma per field per named update of State: what the update does to that field. Each is true by
unfolding the update once, so that no later proof unfolds a record update. -/

namespace Sys2Proof.Machine

@[simp] theorem recordUpdate_cfg (s : State) : (recordUpdate s).cfg = s.cfg := rfl
@[simp] theorem recordUpdate_ib (s : State) : (recordUpdate s).ib = s.ib := rfl
@[simp] theorem recordUpdate_level (s : State) : (recordUpdate s).level = s.level := rfl
@[simp] theorem recordUpdate_wq (s : State) : (recordUpdate s).wq = s.wq := rfl
@[simp] theorem recordUpdate_pstate (s : State) : (recordUpdate s).pstate = s.pstate := rfl
@[simp] theorem recordUpdate_flen (s : State) : (recordUpdate s).flen = s.flen := rfl
@[simp] theorem recordUpdate_cursor (s : State) : (recordUpdate s).cursor = s.cursor := rfl
@[simp] theorem recordUpdate_ptype (s : State) : (recordUpdate s).ptype = s.ptype := rfl
@[simp] theorem recordUpdate_pb (s : State) : (recordUpdate s).pb = s.pb := rfl
@[simp] theorem recordUpdate_ch (s : State) : (recordUpdate s).ch = s.ch := rfl
@[simp] theorem recordUpdate_new (s : State) : (recordUpdate s).new = true := rfl
@[simp] theorem recordUpdate_crcErr (s : State) : (recordUpdate s).crcErr = s.crcErr := rfl
@[simp] theorem recordUpdate_ovf (s : State) : (recordUpdate s).ovf = s.ovf := rfl
@[simp] theorem recordUpdate_lenErr (s : State) : (recordUpdate s).lenErr = s.lenErr := rfl
@[simp] theorem recordUpdate_frameSeq (s : State) : (recordUpdate s).frameSeq = s.frameSeq + 1 := rfl
@[simp] theorem recordUpdate_crcErrCnt (s : State) : (recordUpdate s).crcErrCnt = s.crcErrCnt := rfl
@[simp] theorem recordUpdate_ovfCnt (s : State) : (recordUpdate s).ovfCnt = s.ovfCnt := rfl
@[simp] theorem recordUpdate_count (s : State) : (recordUpdate s).count = s.count := rfl
@[simp] theorem recordUpdate_alarm (s : State) : (recordUpdate s).alarm = s.alarm := rfl
@[simp] theorem recordUpdate_armed (s : State) : (recordUpdate s).armed = s.armed := rfl
@[simp] theorem recordUpdate_pending (s : State) : (recordUpdate s).pending = s.pending := rfl
@[simp] theorem recordUpdate_tph (s : State) : (recordUpdate s).tph = s.tph := rfl
@[simp] theorem recordUpdate_events (s : State) : (recordUpdate s).events = s.events := rfl
@[simp] theorem recordUpdate_busReads (s : State) : (recordUpdate s).busReads = s.busReads := rfl

@[simp] theorem recordCrcError_cfg (s : State) : (recordCrcError s).cfg = s.cfg := rfl
@[simp] theorem recordCrcError_ib (s : State) : (recordCrcError s).ib = s.ib := rfl
@[simp] theorem recordCrcError_level (s : State) : (recordCrcError s).level = s.level := rfl
@[simp] theorem recordCrcError_wq (s : State) : (recordCrcError s).wq = s.wq := rfl
@[simp] theorem recordCrcError_pstate (s : State) : (recordCrcError s).pstate = s.pstate := rfl
@[simp] theorem recordCrcError_flen (s : State) : (recordCrcError s).flen = s.flen := rfl
@[simp] theorem recordCrcError_cursor (s : State) : (recordCrcError s).cursor = s.cursor := rfl
@[simp] theorem recordCrcError_ptype (s : State) : (recordCrcError s).ptype = s.ptype := rfl
@[simp] theorem recordCrcError_pb (s : State) : (recordCrcError s).pb = s.pb := rfl
@[simp] theorem recordCrcError_ch (s : State) : (recordCrcError s).ch = s.ch := rfl
@[simp] theorem recordCrcError_new (s : State) : (recordCrcError s).new = s.new := rfl
@[simp] theorem recordCrcError_crcErr (s : State) : (recordCrcError s).crcErr = true := rfl
@[simp] theorem recordCrcError_ovf (s : State) : (recordCrcError s).ovf = s.ovf := rfl
@[simp] theorem recordCrcError_lenErr (s : State) : (recordCrcError s).lenErr = s.lenErr := rfl
@[simp] theorem recordCrcError_frameSeq (s : State) : (recordCrcError s).frameSeq = s.frameSeq := rfl
@[simp] theorem recordCrcError_crcErrCnt (s : State) : (recordCrcError s).crcErrCnt = s.crcErrCnt + 1 := rfl
@[simp] theorem recordCrcError_ovfCnt (s : State) : (recordCrcError s).ovfCnt = s.ovfCnt := rfl
@[simp] theorem recordCrcError_count (s : State) : (recordCrcError s).count = s.count := rfl
@[simp] theorem recordCrcError_alarm (s : State) : (recordCrcError s).alarm = s.alarm := rfl
@[simp] theorem recordCrcError_armed (s : State) : (recordCrcError s).armed = s.armed := rfl
@[simp] theorem recordCrcError_pending (s : State) : (recordCrcError s).pending = s.pending := rfl
@[simp] theorem recordCrcError_tph (s : State) : (recordCrcError s).tph = s.tph := rfl
@[simp] theorem recordCrcError_events (s : State) : (recordCrcError s).events = s.events := rfl
@[simp] theorem recordCrcError_busReads (s : State) : (recordCrcError s).busReads = s.busReads := rfl

@[simp] theorem recordOverflow_cfg (s : State) : (recordOverflow s).cfg = s.cfg := rfl
@[simp] theorem recordOverflow_ib (s : State) : (recordOverflow s).ib = s.ib := rfl
@[simp] theorem recordOverflow_level (s : State) : (recordOverflow s).level = s.level := rfl
@[simp] theorem recordOverflow_wq (s : State) : (recordOverflow s).wq = s.wq := rfl
@[simp] theorem recordOverflow_pstate (s : State) : (recordOverflow s).pstate = s.pstate := rfl
@[simp] theorem recordOverflow_flen (s : State) : (recordOverflow s).flen = s.flen := rfl
@[simp] theorem recordOverflow_cursor (s : State) : (recordOverflow s).cursor = s.cursor := rfl
@[simp] theorem recordOverflow_ptype (s : State) : (recordOverflow s).ptype = s.ptype := rfl
@[simp] theorem recordOverflow_pb (s : State) : (recordOverflow s).pb = s.pb := rfl
@[simp] theorem recordOverflow_ch (s : State) : (recordOverflow s).ch = s.ch := rfl
@[simp] theorem recordOverflow_new (s : State) : (recordOverflow s).new = s.new := rfl
@[simp] theorem recordOverflow_crcErr (s : State) : (recordOverflow s).crcErr = s.crcErr := rfl
@[simp] theorem recordOverflow_ovf (s : State) : (recordOverflow s).ovf = true := rfl
@[simp] theorem recordOverflow_lenErr (s : State) : (recordOverflow s).lenErr = s.lenErr := rfl
@[simp] theorem recordOverflow_frameSeq (s : State) : (recordOverflow s).frameSeq = s.frameSeq := rfl
@[simp] theorem recordOverflow_crcErrCnt (s : State) : (recordOverflow s).crcErrCnt = s.crcErrCnt := rfl
@[simp] theorem recordOverflow_ovfCnt (s : State) : (recordOverflow s).ovfCnt = s.ovfCnt + 1 := rfl
@[simp] theorem recordOverflow_count (s : State) : (recordOverflow s).count = s.count := rfl
@[simp] theorem recordOverflow_alarm (s : State) : (recordOverflow s).alarm = s.alarm := rfl
@[simp] theorem recordOverflow_armed (s : State) : (recordOverflow s).armed = s.armed := rfl
@[simp] theorem recordOverflow_pending (s : State) : (recordOverflow s).pending = s.pending := rfl
@[simp] theorem recordOverflow_tph (s : State) : (recordOverflow s).tph = s.tph := rfl
@[simp] theorem recordOverflow_events (s : State) : (recordOverflow s).events = s.events := rfl
@[simp] theorem recordOverflow_busReads (s : State) : (recordOverflow s).busReads = s.busReads := rfl

@[simp] theorem recordLenError_cfg (s : State) : (recordLenError s).cfg = s.cfg := rfl
@[simp] theorem recordLenError_ib (s : State) : (recordLenError s).ib = s.ib := rfl
@[simp] theorem recordLenError_level (s : State) : (recordLenError s).level = s.level := rfl
@[simp] theorem recordLenError_wq (s : State) : (recordLenError s).wq = s.wq := rfl
@[simp] theorem recordLenError_pstate (s : State) : (recordLenError s).pstate = s.pstate := rfl
@[simp] theorem recordLenError_flen (s : State) : (recordLenError s).flen = s.flen := rfl
@[simp] theorem recordLenError_cursor (s : State) : (recordLenError s).cursor = s.cursor := rfl
@[simp] theorem recordLenError_ptype (s : State) : (recordLenError s).ptype = s.ptype := rfl
@[simp] theorem recordLenError_pb (s : State) : (recordLenError s).pb = s.pb := rfl
@[simp] theorem recordLenError_ch (s : State) : (recordLenError s).ch = s.ch := rfl
@[simp] theorem recordLenError_new (s : State) : (recordLenError s).new = s.new := rfl
@[simp] theorem recordLenError_crcErr (s : State) : (recordLenError s).crcErr = s.crcErr := rfl
@[simp] theorem recordLenError_ovf (s : State) : (recordLenError s).ovf = s.ovf := rfl
@[simp] theorem recordLenError_lenErr (s : State) : (recordLenError s).lenErr = true := rfl
@[simp] theorem recordLenError_frameSeq (s : State) : (recordLenError s).frameSeq = s.frameSeq := rfl
@[simp] theorem recordLenError_crcErrCnt (s : State) : (recordLenError s).crcErrCnt = s.crcErrCnt := rfl
@[simp] theorem recordLenError_ovfCnt (s : State) : (recordLenError s).ovfCnt = s.ovfCnt := rfl
@[simp] theorem recordLenError_count (s : State) : (recordLenError s).count = s.count := rfl
@[simp] theorem recordLenError_alarm (s : State) : (recordLenError s).alarm = s.alarm := rfl
@[simp] theorem recordLenError_armed (s : State) : (recordLenError s).armed = s.armed := rfl
@[simp] theorem recordLenError_pending (s : State) : (recordLenError s).pending = s.pending := rfl
@[simp] theorem recordLenError_tph (s : State) : (recordLenError s).tph = s.tph := rfl
@[simp] theorem recordLenError_events (s : State) : (recordLenError s).events = s.events := rfl
@[simp] theorem recordLenError_busReads (s : State) : (recordLenError s).busReads = s.busReads := rfl

@[simp] theorem statusW1C_cfg (v : Word) (s : State) : (statusW1C v s).cfg = s.cfg := rfl
@[simp] theorem statusW1C_ib (v : Word) (s : State) : (statusW1C v s).ib = s.ib := rfl
@[simp] theorem statusW1C_level (v : Word) (s : State) : (statusW1C v s).level = s.level := rfl
@[simp] theorem statusW1C_wq (v : Word) (s : State) : (statusW1C v s).wq = s.wq := rfl
@[simp] theorem statusW1C_pstate (v : Word) (s : State) : (statusW1C v s).pstate = s.pstate := rfl
@[simp] theorem statusW1C_flen (v : Word) (s : State) : (statusW1C v s).flen = s.flen := rfl
@[simp] theorem statusW1C_cursor (v : Word) (s : State) : (statusW1C v s).cursor = s.cursor := rfl
@[simp] theorem statusW1C_ptype (v : Word) (s : State) : (statusW1C v s).ptype = s.ptype := rfl
@[simp] theorem statusW1C_pb (v : Word) (s : State) : (statusW1C v s).pb = s.pb := rfl
@[simp] theorem statusW1C_ch (v : Word) (s : State) : (statusW1C v s).ch = s.ch := rfl
@[simp] theorem statusW1C_new (v : Word) (s : State) : (statusW1C v s).new = (s.new && !v.getLsbD 0) := rfl
@[simp] theorem statusW1C_crcErr (v : Word) (s : State) : (statusW1C v s).crcErr = (s.crcErr && !v.getLsbD 1) := rfl
@[simp] theorem statusW1C_ovf (v : Word) (s : State) : (statusW1C v s).ovf = (s.ovf && !v.getLsbD 2) := rfl
@[simp] theorem statusW1C_lenErr (v : Word) (s : State) : (statusW1C v s).lenErr = (s.lenErr && !v.getLsbD 3) := rfl
@[simp] theorem statusW1C_frameSeq (v : Word) (s : State) : (statusW1C v s).frameSeq = s.frameSeq := rfl
@[simp] theorem statusW1C_crcErrCnt (v : Word) (s : State) : (statusW1C v s).crcErrCnt = s.crcErrCnt := rfl
@[simp] theorem statusW1C_ovfCnt (v : Word) (s : State) : (statusW1C v s).ovfCnt = s.ovfCnt := rfl
@[simp] theorem statusW1C_count (v : Word) (s : State) : (statusW1C v s).count = s.count := rfl
@[simp] theorem statusW1C_alarm (v : Word) (s : State) : (statusW1C v s).alarm = s.alarm := rfl
@[simp] theorem statusW1C_armed (v : Word) (s : State) : (statusW1C v s).armed = s.armed := rfl
@[simp] theorem statusW1C_pending (v : Word) (s : State) : (statusW1C v s).pending = s.pending := rfl
@[simp] theorem statusW1C_tph (v : Word) (s : State) : (statusW1C v s).tph = s.tph := rfl
@[simp] theorem statusW1C_events (v : Word) (s : State) : (statusW1C v s).events = s.events := rfl
@[simp] theorem statusW1C_busReads (v : Word) (s : State) : (statusW1C v s).busReads = s.busReads := rfl

@[simp] theorem intakeOverflow_cfg (s : State) : (intakeOverflow s).cfg = s.cfg := rfl
@[simp] theorem intakeOverflow_ib (s : State) : (intakeOverflow s).ib = s.ib := rfl
@[simp] theorem intakeOverflow_level (s : State) : (intakeOverflow s).level = 0 := rfl
@[simp] theorem intakeOverflow_wq (s : State) : (intakeOverflow s).wq = s.wq := rfl
@[simp] theorem intakeOverflow_pstate (s : State) : (intakeOverflow s).pstate = s.pstate := rfl
@[simp] theorem intakeOverflow_flen (s : State) : (intakeOverflow s).flen = s.flen := rfl
@[simp] theorem intakeOverflow_cursor (s : State) : (intakeOverflow s).cursor = s.cursor := rfl
@[simp] theorem intakeOverflow_ptype (s : State) : (intakeOverflow s).ptype = s.ptype := rfl
@[simp] theorem intakeOverflow_pb (s : State) : (intakeOverflow s).pb = s.pb := rfl
@[simp] theorem intakeOverflow_ch (s : State) : (intakeOverflow s).ch = s.ch := rfl
@[simp] theorem intakeOverflow_new (s : State) : (intakeOverflow s).new = s.new := rfl
@[simp] theorem intakeOverflow_crcErr (s : State) : (intakeOverflow s).crcErr = s.crcErr := rfl
@[simp] theorem intakeOverflow_ovf (s : State) : (intakeOverflow s).ovf = true := rfl
@[simp] theorem intakeOverflow_lenErr (s : State) : (intakeOverflow s).lenErr = s.lenErr := rfl
@[simp] theorem intakeOverflow_frameSeq (s : State) : (intakeOverflow s).frameSeq = s.frameSeq := rfl
@[simp] theorem intakeOverflow_crcErrCnt (s : State) : (intakeOverflow s).crcErrCnt = s.crcErrCnt := rfl
@[simp] theorem intakeOverflow_ovfCnt (s : State) : (intakeOverflow s).ovfCnt = s.ovfCnt + 1 := rfl
@[simp] theorem intakeOverflow_count (s : State) : (intakeOverflow s).count = s.count := rfl
@[simp] theorem intakeOverflow_alarm (s : State) : (intakeOverflow s).alarm = s.alarm := rfl
@[simp] theorem intakeOverflow_armed (s : State) : (intakeOverflow s).armed = s.armed := rfl
@[simp] theorem intakeOverflow_pending (s : State) : (intakeOverflow s).pending = s.pending := rfl
@[simp] theorem intakeOverflow_tph (s : State) : (intakeOverflow s).tph = s.tph := rfl
@[simp] theorem intakeOverflow_events (s : State) : (intakeOverflow s).events = s.events := rfl
@[simp] theorem intakeOverflow_busReads (s : State) : (intakeOverflow s).busReads = s.busReads := rfl

@[simp] theorem acknowledgeTick_cfg (s : State) : (acknowledgeTick s).cfg = s.cfg := rfl
@[simp] theorem acknowledgeTick_ib (s : State) : (acknowledgeTick s).ib = s.ib := rfl
@[simp] theorem acknowledgeTick_level (s : State) : (acknowledgeTick s).level = s.level := rfl
@[simp] theorem acknowledgeTick_wq (s : State) : (acknowledgeTick s).wq = s.wq := rfl
@[simp] theorem acknowledgeTick_pstate (s : State) : (acknowledgeTick s).pstate = s.pstate := rfl
@[simp] theorem acknowledgeTick_flen (s : State) : (acknowledgeTick s).flen = s.flen := rfl
@[simp] theorem acknowledgeTick_cursor (s : State) : (acknowledgeTick s).cursor = s.cursor := rfl
@[simp] theorem acknowledgeTick_ptype (s : State) : (acknowledgeTick s).ptype = s.ptype := rfl
@[simp] theorem acknowledgeTick_pb (s : State) : (acknowledgeTick s).pb = s.pb := rfl
@[simp] theorem acknowledgeTick_ch (s : State) : (acknowledgeTick s).ch = s.ch := rfl
@[simp] theorem acknowledgeTick_new (s : State) : (acknowledgeTick s).new = s.new := rfl
@[simp] theorem acknowledgeTick_crcErr (s : State) : (acknowledgeTick s).crcErr = s.crcErr := rfl
@[simp] theorem acknowledgeTick_ovf (s : State) : (acknowledgeTick s).ovf = s.ovf := rfl
@[simp] theorem acknowledgeTick_lenErr (s : State) : (acknowledgeTick s).lenErr = s.lenErr := rfl
@[simp] theorem acknowledgeTick_frameSeq (s : State) : (acknowledgeTick s).frameSeq = s.frameSeq := rfl
@[simp] theorem acknowledgeTick_crcErrCnt (s : State) : (acknowledgeTick s).crcErrCnt = s.crcErrCnt := rfl
@[simp] theorem acknowledgeTick_ovfCnt (s : State) : (acknowledgeTick s).ovfCnt = s.ovfCnt := rfl
@[simp] theorem acknowledgeTick_count (s : State) : (acknowledgeTick s).count = s.count := rfl
@[simp] theorem acknowledgeTick_alarm (s : State) : (acknowledgeTick s).alarm = s.count + s.cfg.tickPeriod := rfl
@[simp] theorem acknowledgeTick_armed (s : State) : (acknowledgeTick s).armed = true := rfl
@[simp] theorem acknowledgeTick_pending (s : State) : (acknowledgeTick s).pending = false := rfl
@[simp] theorem acknowledgeTick_tph (s : State) : (acknowledgeTick s).tph = .due := rfl
@[simp] theorem acknowledgeTick_events (s : State) : (acknowledgeTick s).events = s.events := rfl
@[simp] theorem acknowledgeTick_busReads (s : State) : (acknowledgeTick s).busReads = s.busReads := rfl

@[simp] theorem endTick_cfg (s : State) : (endTick s).cfg = s.cfg := rfl
@[simp] theorem endTick_ib (s : State) : (endTick s).ib = s.ib := rfl
@[simp] theorem endTick_level (s : State) : (endTick s).level = s.level := rfl
@[simp] theorem endTick_wq (s : State) : (endTick s).wq = s.wq := rfl
@[simp] theorem endTick_pstate (s : State) : (endTick s).pstate = s.pstate := rfl
@[simp] theorem endTick_flen (s : State) : (endTick s).flen = s.flen := rfl
@[simp] theorem endTick_cursor (s : State) : (endTick s).cursor = s.cursor := rfl
@[simp] theorem endTick_ptype (s : State) : (endTick s).ptype = s.ptype := rfl
@[simp] theorem endTick_pb (s : State) : (endTick s).pb = s.pb := rfl
@[simp] theorem endTick_ch (s : State) : (endTick s).ch = s.ch := rfl
@[simp] theorem endTick_new (s : State) : (endTick s).new = s.new := rfl
@[simp] theorem endTick_crcErr (s : State) : (endTick s).crcErr = s.crcErr := rfl
@[simp] theorem endTick_ovf (s : State) : (endTick s).ovf = s.ovf := rfl
@[simp] theorem endTick_lenErr (s : State) : (endTick s).lenErr = s.lenErr := rfl
@[simp] theorem endTick_frameSeq (s : State) : (endTick s).frameSeq = s.frameSeq := rfl
@[simp] theorem endTick_crcErrCnt (s : State) : (endTick s).crcErrCnt = s.crcErrCnt := rfl
@[simp] theorem endTick_ovfCnt (s : State) : (endTick s).ovfCnt = s.ovfCnt := rfl
@[simp] theorem endTick_count (s : State) : (endTick s).count = s.count := rfl
@[simp] theorem endTick_alarm (s : State) : (endTick s).alarm = s.alarm := rfl
@[simp] theorem endTick_armed (s : State) : (endTick s).armed = s.armed := rfl
@[simp] theorem endTick_pending (s : State) : (endTick s).pending = s.pending := rfl
@[simp] theorem endTick_tph (s : State) : (endTick s).tph = .idle := rfl
@[simp] theorem endTick_events (s : State) : (endTick s).events = s.events := rfl
@[simp] theorem endTick_busReads (s : State) : (endTick s).busReads = s.busReads := rfl

@[simp] theorem returnToHost_cfg (v : Word) (s : State) : (returnToHost v s).cfg = s.cfg := rfl
@[simp] theorem returnToHost_ib (v : Word) (s : State) : (returnToHost v s).ib = s.ib := rfl
@[simp] theorem returnToHost_level (v : Word) (s : State) : (returnToHost v s).level = s.level := rfl
@[simp] theorem returnToHost_wq (v : Word) (s : State) : (returnToHost v s).wq = s.wq := rfl
@[simp] theorem returnToHost_pstate (v : Word) (s : State) : (returnToHost v s).pstate = s.pstate := rfl
@[simp] theorem returnToHost_flen (v : Word) (s : State) : (returnToHost v s).flen = s.flen := rfl
@[simp] theorem returnToHost_cursor (v : Word) (s : State) : (returnToHost v s).cursor = s.cursor := rfl
@[simp] theorem returnToHost_ptype (v : Word) (s : State) : (returnToHost v s).ptype = s.ptype := rfl
@[simp] theorem returnToHost_pb (v : Word) (s : State) : (returnToHost v s).pb = s.pb := rfl
@[simp] theorem returnToHost_ch (v : Word) (s : State) : (returnToHost v s).ch = s.ch := rfl
@[simp] theorem returnToHost_new (v : Word) (s : State) : (returnToHost v s).new = s.new := rfl
@[simp] theorem returnToHost_crcErr (v : Word) (s : State) : (returnToHost v s).crcErr = s.crcErr := rfl
@[simp] theorem returnToHost_ovf (v : Word) (s : State) : (returnToHost v s).ovf = s.ovf := rfl
@[simp] theorem returnToHost_lenErr (v : Word) (s : State) : (returnToHost v s).lenErr = s.lenErr := rfl
@[simp] theorem returnToHost_frameSeq (v : Word) (s : State) : (returnToHost v s).frameSeq = s.frameSeq := rfl
@[simp] theorem returnToHost_crcErrCnt (v : Word) (s : State) : (returnToHost v s).crcErrCnt = s.crcErrCnt := rfl
@[simp] theorem returnToHost_ovfCnt (v : Word) (s : State) : (returnToHost v s).ovfCnt = s.ovfCnt := rfl
@[simp] theorem returnToHost_count (v : Word) (s : State) : (returnToHost v s).count = s.count := rfl
@[simp] theorem returnToHost_alarm (v : Word) (s : State) : (returnToHost v s).alarm = s.alarm := rfl
@[simp] theorem returnToHost_armed (v : Word) (s : State) : (returnToHost v s).armed = s.armed := rfl
@[simp] theorem returnToHost_pending (v : Word) (s : State) : (returnToHost v s).pending = s.pending := rfl
@[simp] theorem returnToHost_tph (v : Word) (s : State) : (returnToHost v s).tph = s.tph := rfl
@[simp] theorem returnToHost_events (v : Word) (s : State) : (returnToHost v s).events = s.events := rfl
@[simp] theorem returnToHost_busReads (v : Word) (s : State) : (returnToHost v s).busReads = v :: s.busReads := rfl

@[simp] theorem placeEvent_cfg (w : Word) (s : State) : (placeEvent w s).cfg = s.cfg := rfl
@[simp] theorem placeEvent_ib (w : Word) (s : State) : (placeEvent w s).ib = s.ib := rfl
@[simp] theorem placeEvent_level (w : Word) (s : State) : (placeEvent w s).level = s.level := rfl
@[simp] theorem placeEvent_wq (w : Word) (s : State) : (placeEvent w s).wq = s.wq := rfl
@[simp] theorem placeEvent_pstate (w : Word) (s : State) : (placeEvent w s).pstate = s.pstate := rfl
@[simp] theorem placeEvent_flen (w : Word) (s : State) : (placeEvent w s).flen = s.flen := rfl
@[simp] theorem placeEvent_cursor (w : Word) (s : State) : (placeEvent w s).cursor = s.cursor := rfl
@[simp] theorem placeEvent_ptype (w : Word) (s : State) : (placeEvent w s).ptype = s.ptype := rfl
@[simp] theorem placeEvent_pb (w : Word) (s : State) : (placeEvent w s).pb = s.pb := rfl
@[simp] theorem placeEvent_ch (w : Word) (s : State) : (placeEvent w s).ch = s.ch := rfl
@[simp] theorem placeEvent_new (w : Word) (s : State) : (placeEvent w s).new = s.new := rfl
@[simp] theorem placeEvent_crcErr (w : Word) (s : State) : (placeEvent w s).crcErr = s.crcErr := rfl
@[simp] theorem placeEvent_ovf (w : Word) (s : State) : (placeEvent w s).ovf = s.ovf := rfl
@[simp] theorem placeEvent_lenErr (w : Word) (s : State) : (placeEvent w s).lenErr = s.lenErr := rfl
@[simp] theorem placeEvent_frameSeq (w : Word) (s : State) : (placeEvent w s).frameSeq = s.frameSeq := rfl
@[simp] theorem placeEvent_crcErrCnt (w : Word) (s : State) : (placeEvent w s).crcErrCnt = s.crcErrCnt := rfl
@[simp] theorem placeEvent_ovfCnt (w : Word) (s : State) : (placeEvent w s).ovfCnt = s.ovfCnt := rfl
@[simp] theorem placeEvent_count (w : Word) (s : State) : (placeEvent w s).count = s.count := rfl
@[simp] theorem placeEvent_alarm (w : Word) (s : State) : (placeEvent w s).alarm = s.alarm := rfl
@[simp] theorem placeEvent_armed (w : Word) (s : State) : (placeEvent w s).armed = s.armed := rfl
@[simp] theorem placeEvent_pending (w : Word) (s : State) : (placeEvent w s).pending = s.pending := rfl
@[simp] theorem placeEvent_tph (w : Word) (s : State) : (placeEvent w s).tph = s.tph := rfl
@[simp] theorem placeEvent_events (w : Word) (s : State) : (placeEvent w s).events = w :: s.events := rfl
@[simp] theorem placeEvent_busReads (w : Word) (s : State) : (placeEvent w s).busReads = s.busReads := rfl

@[simp] theorem lengthByte_cfg (b : Byte) (s : State) : (lengthByte b s).cfg = s.cfg := rfl
@[simp] theorem lengthByte_ib (b : Byte) (s : State) : (lengthByte b s).ib = s.ib := rfl
@[simp] theorem lengthByte_level (b : Byte) (s : State) : (lengthByte b s).level = s.level := rfl
@[simp] theorem lengthByte_wq (b : Byte) (s : State) : (lengthByte b s).wq = s.wq := rfl
@[simp] theorem lengthByte_pstate (b : Byte) (s : State) : (lengthByte b s).pstate = if b = 0 then .awaitSync else .readPayload := rfl
@[simp] theorem lengthByte_flen (b : Byte) (s : State) : (lengthByte b s).flen = b := rfl
@[simp] theorem lengthByte_cursor (b : Byte) (s : State) : (lengthByte b s).cursor = 0 := rfl
@[simp] theorem lengthByte_ptype (b : Byte) (s : State) : (lengthByte b s).ptype = s.ptype := rfl
@[simp] theorem lengthByte_pb (b : Byte) (s : State) : (lengthByte b s).pb = s.pb := rfl
@[simp] theorem lengthByte_ch (b : Byte) (s : State) : (lengthByte b s).ch = s.ch := rfl
@[simp] theorem lengthByte_new (b : Byte) (s : State) : (lengthByte b s).new = s.new := rfl
@[simp] theorem lengthByte_crcErr (b : Byte) (s : State) : (lengthByte b s).crcErr = s.crcErr := rfl
@[simp] theorem lengthByte_ovf (b : Byte) (s : State) : (lengthByte b s).ovf = s.ovf := rfl
@[simp] theorem lengthByte_lenErr (b : Byte) (s : State) : (lengthByte b s).lenErr = s.lenErr := rfl
@[simp] theorem lengthByte_frameSeq (b : Byte) (s : State) : (lengthByte b s).frameSeq = s.frameSeq := rfl
@[simp] theorem lengthByte_crcErrCnt (b : Byte) (s : State) : (lengthByte b s).crcErrCnt = s.crcErrCnt := rfl
@[simp] theorem lengthByte_ovfCnt (b : Byte) (s : State) : (lengthByte b s).ovfCnt = s.ovfCnt := rfl
@[simp] theorem lengthByte_count (b : Byte) (s : State) : (lengthByte b s).count = s.count := rfl
@[simp] theorem lengthByte_alarm (b : Byte) (s : State) : (lengthByte b s).alarm = s.alarm := rfl
@[simp] theorem lengthByte_armed (b : Byte) (s : State) : (lengthByte b s).armed = s.armed := rfl
@[simp] theorem lengthByte_pending (b : Byte) (s : State) : (lengthByte b s).pending = s.pending := rfl
@[simp] theorem lengthByte_tph (b : Byte) (s : State) : (lengthByte b s).tph = s.tph := rfl
@[simp] theorem lengthByte_events (b : Byte) (s : State) : (lengthByte b s).events = s.events := rfl
@[simp] theorem lengthByte_busReads (b : Byte) (s : State) : (lengthByte b s).busReads = s.busReads := rfl

@[simp] theorem resetCore_cfg (s : State) : (resetCore s).cfg = s.cfg := rfl
@[simp] theorem resetCore_ib (s : State) : (resetCore s).ib = [] := rfl
@[simp] theorem resetCore_level (s : State) : (resetCore s).level = 0 := rfl
@[simp] theorem resetCore_wq (s : State) : (resetCore s).wq = [] := rfl
@[simp] theorem resetCore_pstate (s : State) : (resetCore s).pstate = .awaitSync := rfl
@[simp] theorem resetCore_flen (s : State) : (resetCore s).flen = 0 := rfl
@[simp] theorem resetCore_cursor (s : State) : (resetCore s).cursor = 0 := rfl
@[simp] theorem resetCore_ptype (s : State) : (resetCore s).ptype = 0 := rfl
@[simp] theorem resetCore_pb (s : State) : (resetCore s).pb = Vector.replicate 24 0 := rfl
@[simp] theorem resetCore_ch (s : State) : (resetCore s).ch = Vector.replicate 16 0 := rfl
@[simp] theorem resetCore_new (s : State) : (resetCore s).new = false := rfl
@[simp] theorem resetCore_crcErr (s : State) : (resetCore s).crcErr = false := rfl
@[simp] theorem resetCore_ovf (s : State) : (resetCore s).ovf = false := rfl
@[simp] theorem resetCore_lenErr (s : State) : (resetCore s).lenErr = false := rfl
@[simp] theorem resetCore_frameSeq (s : State) : (resetCore s).frameSeq = 0 := rfl
@[simp] theorem resetCore_crcErrCnt (s : State) : (resetCore s).crcErrCnt = 0 := rfl
@[simp] theorem resetCore_ovfCnt (s : State) : (resetCore s).ovfCnt = 0 := rfl
@[simp] theorem resetCore_count (s : State) : (resetCore s).count = 0 := rfl
@[simp] theorem resetCore_alarm (s : State) : (resetCore s).alarm = s.cfg.tickPeriod := rfl
@[simp] theorem resetCore_armed (s : State) : (resetCore s).armed = true := rfl
@[simp] theorem resetCore_pending (s : State) : (resetCore s).pending = false := rfl
@[simp] theorem resetCore_tph (s : State) : (resetCore s).tph = .idle := rfl
@[simp] theorem resetCore_events (s : State) : (resetCore s).events = s.events := rfl
@[simp] theorem resetCore_busReads (s : State) : (resetCore s).busReads = s.busReads := rfl

@[simp] theorem resetWith_cfg (c : Config) : (State.resetWith c).cfg = c := rfl
@[simp] theorem resetWith_ib (c : Config) : (State.resetWith c).ib = [] := rfl
@[simp] theorem resetWith_level (c : Config) : (State.resetWith c).level = 0 := rfl
@[simp] theorem resetWith_wq (c : Config) : (State.resetWith c).wq = [] := rfl
@[simp] theorem resetWith_pstate (c : Config) : (State.resetWith c).pstate = .awaitSync := rfl
@[simp] theorem resetWith_flen (c : Config) : (State.resetWith c).flen = 0 := rfl
@[simp] theorem resetWith_cursor (c : Config) : (State.resetWith c).cursor = 0 := rfl
@[simp] theorem resetWith_ptype (c : Config) : (State.resetWith c).ptype = 0 := rfl
@[simp] theorem resetWith_pb (c : Config) : (State.resetWith c).pb = Vector.replicate 24 0 := rfl
@[simp] theorem resetWith_ch (c : Config) : (State.resetWith c).ch = Vector.replicate 16 0 := rfl
@[simp] theorem resetWith_new (c : Config) : (State.resetWith c).new = false := rfl
@[simp] theorem resetWith_crcErr (c : Config) : (State.resetWith c).crcErr = false := rfl
@[simp] theorem resetWith_ovf (c : Config) : (State.resetWith c).ovf = false := rfl
@[simp] theorem resetWith_lenErr (c : Config) : (State.resetWith c).lenErr = false := rfl
@[simp] theorem resetWith_frameSeq (c : Config) : (State.resetWith c).frameSeq = 0 := rfl
@[simp] theorem resetWith_crcErrCnt (c : Config) : (State.resetWith c).crcErrCnt = 0 := rfl
@[simp] theorem resetWith_ovfCnt (c : Config) : (State.resetWith c).ovfCnt = 0 := rfl
@[simp] theorem resetWith_count (c : Config) : (State.resetWith c).count = 0 := rfl
@[simp] theorem resetWith_alarm (c : Config) : (State.resetWith c).alarm = c.tickPeriod := rfl
@[simp] theorem resetWith_armed (c : Config) : (State.resetWith c).armed = true := rfl
@[simp] theorem resetWith_pending (c : Config) : (State.resetWith c).pending = false := rfl
@[simp] theorem resetWith_tph (c : Config) : (State.resetWith c).tph = .idle := rfl
@[simp] theorem resetWith_events (c : Config) : (State.resetWith c).events = [] := rfl
@[simp] theorem resetWith_busReads (c : Config) : (State.resetWith c).busReads = [] := rfl

end Sys2Proof.Machine
end

