-- ==== Sys2Proof/Laws/Parser.lean ====
section
/-! SUPPORT. What the parser step can do, said once (42_frame_parser.md R130-R142): its frame, that it neither reads nor
writes any state outside the parser, the channels and the records, and that its cases are the input classes of R82. -/

namespace Sys2Proof.Machine

/-- `s` with every field outside the parser, the channels and the records taken from `o`. -/
def withOuter (o s : State) : State :=
  { s with
    cfg := o.cfg, ib := o.ib, level := o.level, wq := o.wq, ovf := o.ovf, ovfCnt := o.ovfCnt, count := o.count
    alarm := o.alarm, armed := o.armed, pending := o.pending, tph := o.tph, events := o.events
    busReads := o.busReads }

@[simp] theorem withOuter_pstate (o s : State) : (withOuter o s).pstate = s.pstate := rfl
@[simp] theorem withOuter_flen (o s : State) : (withOuter o s).flen = s.flen := rfl
@[simp] theorem withOuter_cursor (o s : State) : (withOuter o s).cursor = s.cursor := rfl
@[simp] theorem withOuter_ptype (o s : State) : (withOuter o s).ptype = s.ptype := rfl
@[simp] theorem withOuter_pb (o s : State) : (withOuter o s).pb = s.pb := rfl
@[simp] theorem withOuter_ch (o s : State) : (withOuter o s).ch = s.ch := rfl
@[simp] theorem withOuter_new (o s : State) : (withOuter o s).new = s.new := rfl
@[simp] theorem withOuter_crcErr (o s : State) : (withOuter o s).crcErr = s.crcErr := rfl
@[simp] theorem withOuter_lenErr (o s : State) : (withOuter o s).lenErr = s.lenErr := rfl
@[simp] theorem withOuter_frameSeq (o s : State) : (withOuter o s).frameSeq = s.frameSeq := rfl
@[simp] theorem withOuter_crcErrCnt (o s : State) : (withOuter o s).crcErrCnt = s.crcErrCnt := rfl
@[simp] theorem withOuter_cfg (o s : State) : (withOuter o s).cfg = o.cfg := rfl
@[simp] theorem withOuter_ib (o s : State) : (withOuter o s).ib = o.ib := rfl
@[simp] theorem withOuter_level (o s : State) : (withOuter o s).level = o.level := rfl
@[simp] theorem withOuter_wq (o s : State) : (withOuter o s).wq = o.wq := rfl
@[simp] theorem withOuter_ovf (o s : State) : (withOuter o s).ovf = o.ovf := rfl
@[simp] theorem withOuter_ovfCnt (o s : State) : (withOuter o s).ovfCnt = o.ovfCnt := rfl
@[simp] theorem withOuter_count (o s : State) : (withOuter o s).count = o.count := rfl
@[simp] theorem withOuter_alarm (o s : State) : (withOuter o s).alarm = o.alarm := rfl
@[simp] theorem withOuter_armed (o s : State) : (withOuter o s).armed = o.armed := rfl
@[simp] theorem withOuter_pending (o s : State) : (withOuter o s).pending = o.pending := rfl
@[simp] theorem withOuter_tph (o s : State) : (withOuter o s).tph = o.tph := rfl
@[simp] theorem withOuter_events (o s : State) : (withOuter o s).events = o.events := rfl
@[simp] theorem withOuter_busReads (o s : State) : (withOuter o s).busReads = o.busReads := rfl

@[simp] theorem withOuter_self (s : State) : withOuter s s = s := rfl
@[simp] theorem withOuter_withOuter (o p s : State) : withOuter o (withOuter p s) = withOuter o s := rfl

theorem completeFrame_withOuter (o s : State) : completeFrame (withOuter o s) = withOuter o (completeFrame s) := by
  by_cases h1 : s.ptype = acceptType
  · by_cases h2 : s.flen = expectLen
    · by_cases h3 : crc8 s.pb.toList = 0
      · simp only [completeFrame, withOuter_ptype, withOuter_flen, withOuter_pb, h1, h2, h3, ne_eq, not_true,
          if_false, if_true]
        rfl
      · simp only [completeFrame, withOuter_ptype, withOuter_flen, withOuter_pb, h1, h2, h3, ne_eq, not_true,
          if_false]
        rfl
    · simp only [completeFrame, withOuter_ptype, withOuter_flen, h1, h2, ne_eq, not_true, not_false_eq_true,
        if_false, if_true]
      rfl
  · simp only [completeFrame, withOuter_ptype, h1, ne_eq, not_false_eq_true, if_true]

theorem advanceCursor_withOuter (o s : State) : advanceCursor (withOuter o s) = withOuter o (advanceCursor s) := by
  by_cases h : s.cursor + 1 = s.flen
  · simp only [advanceCursor, withOuter_cursor, withOuter_flen, h, if_true]
    exact completeFrame_withOuter o { s with cursor := s.flen, pstate := .awaitSync }
  · simp only [advanceCursor, withOuter_cursor, withOuter_flen, h, if_false]
    rfl

theorem latchType_withOuter (b : Byte) (o s : State) : latchType b (withOuter o s) = withOuter o (latchType b s) := by
  by_cases h : s.cursor = 0
  · simp only [latchType, withOuter_cursor, h, if_true]
    rfl
  · simp only [latchType, withOuter_cursor, h, if_false]

theorem captureByte_withOuter (i b : Byte) (o s : State) :
    captureByte i b (withOuter o s) = withOuter o (captureByte i b s) := by
  by_cases h : i.toNat < payloadCap
  · simp only [captureByte, h, if_true]
    rfl
  · simp only [captureByte, h, if_false]

theorem captureBody_withOuter (b : Byte) (o s : State) :
    captureBody b (withOuter o s) = withOuter o (captureBody b s) := by
  by_cases h : s.ptype = acceptType
  · simp only [captureBody, withOuter_ptype, withOuter_cursor, h, if_true, captureByte_withOuter]
  · simp only [captureBody, withOuter_ptype, h, if_false]

theorem bodyByte_withOuter (b : Byte) (o s : State) : bodyByte b (withOuter o s) = withOuter o (bodyByte b s) := by
  unfold bodyByte
  rw [latchType_withOuter, captureBody_withOuter, advanceCursor_withOuter]

theorem syncCandidate_withOuter (b : Byte) (o s : State) :
    syncCandidate b (withOuter o s) = withOuter o (syncCandidate b s) := by
  by_cases h : b = syncByte
  · simp only [syncCandidate, h, if_true]
    rfl
  · simp only [syncCandidate, h, if_false]

/-- The parser neither reads nor writes the intake, the timer, the sequencer, or the model's own fields. -/
theorem parseByte_withOuter (b : Byte) (o s : State) : parseByte b (withOuter o s) = withOuter o (parseByte b s) := by
  unfold parseByte
  rw [withOuter_pstate]
  cases s.pstate
  · exact syncCandidate_withOuter b o s
  · rfl
  · exact bodyByte_withOuter b o s

/-- R130: what a parser step may write; every other field keeps its value. -/
theorem parseByte_frame (b : Byte) (s : State) :
    parseByte b s = { s with
      pstate := (parseByte b s).pstate, flen := (parseByte b s).flen, cursor := (parseByte b s).cursor,
      ptype := (parseByte b s).ptype, pb := (parseByte b s).pb, ch := (parseByte b s).ch, new := (parseByte b s).new,
      crcErr := (parseByte b s).crcErr, lenErr := (parseByte b s).lenErr, frameSeq := (parseByte b s).frameSeq,
      crcErrCnt := (parseByte b s).crcErrCnt } := by
  exact parseByte_withOuter b s s

@[simp] theorem parseByte_cfg (b : Byte) (s : State) : (parseByte b s).cfg = s.cfg := by rw [parseByte_frame]
@[simp] theorem parseByte_ib (b : Byte) (s : State) : (parseByte b s).ib = s.ib := by rw [parseByte_frame]
@[simp] theorem parseByte_level (b : Byte) (s : State) : (parseByte b s).level = s.level := by rw [parseByte_frame]
@[simp] theorem parseByte_wq (b : Byte) (s : State) : (parseByte b s).wq = s.wq := by rw [parseByte_frame]
@[simp] theorem parseByte_ovf (b : Byte) (s : State) : (parseByte b s).ovf = s.ovf := by rw [parseByte_frame]
@[simp] theorem parseByte_ovfCnt (b : Byte) (s : State) : (parseByte b s).ovfCnt = s.ovfCnt := by rw [parseByte_frame]
@[simp] theorem parseByte_count (b : Byte) (s : State) : (parseByte b s).count = s.count := by rw [parseByte_frame]
@[simp] theorem parseByte_alarm (b : Byte) (s : State) : (parseByte b s).alarm = s.alarm := by rw [parseByte_frame]
@[simp] theorem parseByte_armed (b : Byte) (s : State) : (parseByte b s).armed = s.armed := by rw [parseByte_frame]
@[simp] theorem parseByte_pending (b : Byte) (s : State) : (parseByte b s).pending = s.pending := by rw [parseByte_frame]
@[simp] theorem parseByte_tph (b : Byte) (s : State) : (parseByte b s).tph = s.tph := by rw [parseByte_frame]
@[simp] theorem parseByte_events (b : Byte) (s : State) : (parseByte b s).events = s.events := by rw [parseByte_frame]
@[simp] theorem parseByte_busReads (b : Byte) (s : State) : (parseByte b s).busReads = s.busReads := by
  rw [parseByte_frame]

@[simp] theorem parseBytes_nil (s : State) : parseBytes [] s = s := rfl
@[simp] theorem parseBytes_cons (b : Byte) (bs : List Byte) (s : State) :
    parseBytes (b :: bs) s = parseBytes bs (parseByte b s) := rfl

theorem parseBytes_append (a b : List Byte) (s : State) :
    parseBytes (a ++ b) s = parseBytes b (parseBytes a s) := by simp [parseBytes, List.foldl_append]

/-- The parser's outcome over a byte sequence does not depend on the state outside it. -/
theorem parseBytes_withOuter (bs : List Byte) (o s : State) :
    parseBytes bs (withOuter o s) = withOuter o (parseBytes bs s) := by
  induction bs generalizing s with
  | nil => rfl
  | cons b bs ih => rw [parseBytes_cons, parseByte_withOuter, ih]; rfl

/-- A change of WQ passes through the parser step. -/
theorem parseByte_with_wq (b : Byte) (s : State) (q : List Byte) :
    parseByte b { s with wq := q } = { parseByte b s with wq := q } := by
  have h := parseByte_withOuter b { s with wq := q } s
  refine h.trans ?_
  conv_rhs => rw [parseByte_frame b s]
  rfl

/-- A parser run is its own frame. -/
theorem parseBytes_frame (bs : List Byte) (s : State) : parseBytes bs s = withOuter s (parseBytes bs s) :=
  parseBytes_withOuter bs s s

/-- A change of the intake, WQ or the phase passes through a parser run. -/
theorem parseBytes_with (bs : List Byte) (s : State) (m : Memory) (l : Nat) (q : List Byte) (p : TPhase) :
    parseBytes bs { s with ib := m, level := l, wq := q, tph := p } =
      { parseBytes bs s with ib := m, level := l, wq := q, tph := p } := by
  have h := parseBytes_withOuter bs { s with ib := m, level := l, wq := q, tph := p } s
  refine h.trans ?_
  conv_rhs => rw [parseBytes_frame bs s]
  rfl

/-- R136 to R140: the four outcomes of a completed frame. -/
theorem completeFrame_cases (s : State) :
    (s.ptype ≠ acceptType ∧ completeFrame s = s) ∨
    (s.ptype = acceptType ∧ s.flen ≠ expectLen ∧ completeFrame s = recordLenError s) ∨
    (s.ptype = acceptType ∧ s.flen = expectLen ∧ crc8 s.pb.toList = 0 ∧
      completeFrame s = recordUpdate { s with ch := unpack (dataBytesOf s.pb) }) ∨
    (s.ptype = acceptType ∧ s.flen = expectLen ∧ crc8 s.pb.toList ≠ 0 ∧ completeFrame s = recordCrcError s) := by
  unfold completeFrame
  split
  · next h => exact .inl ⟨h, rfl⟩
  · next h =>
    have h : s.ptype = acceptType := by simpa using h
    split
    · next h' => exact .inr (.inl ⟨h, h', rfl⟩)
    · next h' =>
      have h' : s.flen = expectLen := by simpa using h'
      split
      · next hc => exact .inr (.inr (.inl ⟨h, h', hc, rfl⟩))
      · next hc => exact .inr (.inr (.inr ⟨h, h', hc, rfl⟩))

/-- R132: the cursor advances; at FLEN the frame completes. -/
theorem advanceCursor_cases (s : State) :
    (s.cursor + 1 = s.flen ∧
      advanceCursor s = completeFrame { s with cursor := s.cursor + 1, pstate := .awaitSync }) ∨
    (s.cursor + 1 ≠ s.flen ∧ advanceCursor s = { s with cursor := s.cursor + 1 }) := by
  unfold advanceCursor
  split
  · next h => exact .inl ⟨h, rfl⟩
  · next h => exact .inr ⟨h, rfl⟩

/-- R132: a body byte before its cursor advances writes only PTYPE and PB. -/
theorem captured_frame (b : Byte) (s : State) :
    captureBody b (latchType b s) =
      { s with ptype := (captureBody b (latchType b s)).ptype, pb := (captureBody b (latchType b s)).pb } := by
  simp only [captureBody, latchType, captureByte]
  repeat' split
  all_goals rfl

/-- R132: the packet type after a body byte. -/
theorem captured_ptype (b : Byte) (s : State) :
    (captureBody b (latchType b s)).ptype = if s.cursor = 0 then b else s.ptype := by
  simp only [captureBody, latchType, captureByte]
  repeat' split
  all_goals rfl

/-- R132: what a body byte captures. -/
theorem captured_pb (b : Byte) (s : State) :
    (captureBody b (latchType b s)).pb =
      if (if s.cursor = 0 then b else s.ptype) = acceptType ∧ s.cursor.toNat < payloadCap then
        s.pb.setIfInBounds s.cursor.toNat b
      else s.pb := by
  simp only [captureBody, latchType, captureByte]
  repeat' split
  all_goals first | rfl | simp_all

/-- R132: the state in which a body byte has been latched and captured, before CURSOR advances. -/
def captured (b : Byte) (s : State) : State := captureBody b (latchType b s)

theorem captured_eq (b : Byte) (s : State) :
    captured b s = { s with ptype := (captured b s).ptype, pb := (captured b s).pb } := captured_frame b s

@[simp] theorem captured_cursor (b : Byte) (s : State) : (captured b s).cursor = s.cursor := by rw [captured_eq]
@[simp] theorem captured_flen (b : Byte) (s : State) : (captured b s).flen = s.flen := by rw [captured_eq]

/-- R130: everything a parser step can do. -/
theorem parseByte_cases (b : Byte) (s : State) :
    (s.pstate = .awaitSync ∧ b = syncByte ∧ parseByte b s = { s with pstate := .readLen }) ∨
    (s.pstate = .awaitSync ∧ b ≠ syncByte ∧ parseByte b s = s) ∨
    (s.pstate = .readLen ∧
      parseByte b s = { s with flen := b, cursor := 0, pstate := if b = 0 then .awaitSync else .readPayload }) ∨
    (s.pstate = .readPayload ∧ s.cursor + 1 ≠ s.flen ∧
      parseByte b s = { captured b s with cursor := s.cursor + 1 }) ∨
    (s.pstate = .readPayload ∧ s.cursor + 1 = s.flen ∧
      parseByte b s = completeFrame { captured b s with cursor := s.cursor + 1, pstate := .awaitSync }) := by
  unfold parseByte
  cases h : s.pstate with
  | awaitSync =>
    by_cases hb : b = syncByte
    · exact .inl ⟨rfl, hb, by simp only [syncCandidate, hb, if_true]⟩
    · exact .inr (.inl ⟨rfl, hb, by simp only [syncCandidate, hb, if_false]⟩)
  | readLen => exact .inr (.inr (.inl ⟨rfl, rfl⟩))
  | readPayload =>
    rcases advanceCursor_cases (captured b s) with ⟨h1, h2⟩ | ⟨h1, h2⟩ <;>
      rw [captured_cursor, captured_flen] at h1
    · refine .inr (.inr (.inr (.inr ⟨rfl, h1, ?_⟩)))
      rw [captured_cursor] at h2
      exact h2
    · refine .inr (.inr (.inr (.inl ⟨rfl, h1, ?_⟩)))
      rw [captured_cursor] at h2
      exact h2

/-- R136 to R140: a completed frame writes only CH, the flags and the counters of its outcome. -/
theorem completeFrame_frame (s : State) :
    completeFrame s = { s with
      ch := (completeFrame s).ch, new := (completeFrame s).new, crcErr := (completeFrame s).crcErr
      lenErr := (completeFrame s).lenErr, frameSeq := (completeFrame s).frameSeq
      crcErrCnt := (completeFrame s).crcErrCnt } := by
  rcases completeFrame_cases s with ⟨_, e⟩ | ⟨_, _, e⟩ | ⟨_, _, _, e⟩ | ⟨_, _, _, e⟩ <;> rw [e] <;> rfl

@[simp] theorem completeFrame_pstate (s : State) : (completeFrame s).pstate = s.pstate := by rw [completeFrame_frame]
@[simp] theorem completeFrame_cursor (s : State) : (completeFrame s).cursor = s.cursor := by rw [completeFrame_frame]
@[simp] theorem completeFrame_flen (s : State) : (completeFrame s).flen = s.flen := by rw [completeFrame_frame]
@[simp] theorem completeFrame_ptype (s : State) : (completeFrame s).ptype = s.ptype := by rw [completeFrame_frame]
@[simp] theorem completeFrame_pb (s : State) : (completeFrame s).pb = s.pb := by rw [completeFrame_frame]

/-- R27: inside a body the cursor stays before the frame's end. -/
theorem parseByte_cursor (b : Byte) (s : State) (h : s.pstate = .readPayload → s.cursor.toNat < s.flen.toNat) :
    (parseByte b s).pstate = .readPayload → (parseByte b s).cursor.toNat < (parseByte b s).flen.toNat := by
  rcases parseByte_cases b s with ⟨_, _, e⟩ | ⟨h1, _, e⟩ | ⟨_, e⟩ | ⟨h1, h2, e⟩ | ⟨_, _, e⟩ <;> rw [e]
  · intro hc; cases hc
  · exact h
  · intro hc
    by_cases hb : b = 0
    · simp [hb] at hc
    · show (0 : Byte).toNat < b.toNat
      have : b.toNat ≠ 0 := fun hz => hb (BitVec.eq_of_toNat_eq hz)
      simp only [BitVec.ofNat_eq_ofNat, BitVec.toNat_ofNat, Nat.zero_mod]
      omega
  · intro _
    have hlt := h h1
    have hfl := s.flen.isLt
    show (s.cursor + 1).toNat < (captured b s).flen.toNat
    rw [captured_flen]
    have hne : (s.cursor + 1).toNat ≠ s.flen.toNat := fun hz => h2 (BitVec.eq_of_toNat_eq hz)
    have hs : (s.cursor + 1).toNat = s.cursor.toNat + 1 := by
      simp only [BitVec.ofNat_eq_ofNat, BitVec.toNat_add, BitVec.toNat_ofNat]
      omega
    omega
  · simp

/-- R206: the parser step records at most one outcome, and only in the step that ends a frame. -/
theorem parseByte_records (b : Byte) (s : State) :
    ((parseByte b s).ch = s.ch ∧ (parseByte b s).frameSeq = s.frameSeq ∧ (parseByte b s).new = s.new ∧
      (parseByte b s).crcErrCnt = s.crcErrCnt ∧ (parseByte b s).crcErr = s.crcErr ∧
      (parseByte b s).lenErr = s.lenErr) ∨
    ((parseByte b s).pstate = .awaitSync ∧ (parseByte b s).frameSeq = s.frameSeq + 1 ∧ (parseByte b s).new = true ∧
      (parseByte b s).crcErrCnt = s.crcErrCnt ∧ (parseByte b s).crcErr = s.crcErr ∧
      (parseByte b s).lenErr = s.lenErr) ∨
    ((parseByte b s).pstate = .awaitSync ∧ (parseByte b s).ch = s.ch ∧ (parseByte b s).frameSeq = s.frameSeq ∧
      (parseByte b s).new = s.new ∧ (parseByte b s).crcErrCnt = s.crcErrCnt + 1 ∧ (parseByte b s).crcErr = true ∧
      (parseByte b s).lenErr = s.lenErr) ∨
    ((parseByte b s).pstate = .awaitSync ∧ (parseByte b s).ch = s.ch ∧ (parseByte b s).frameSeq = s.frameSeq ∧
      (parseByte b s).new = s.new ∧ (parseByte b s).crcErrCnt = s.crcErrCnt ∧ (parseByte b s).crcErr = s.crcErr ∧
      (parseByte b s).lenErr = true) := by
  rcases parseByte_cases b s with ⟨_, _, e⟩ | ⟨_, _, e⟩ | ⟨_, e⟩ | ⟨_, _, e⟩ | ⟨_, _, e⟩
  · rw [e]; exact .inl ⟨rfl, rfl, rfl, rfl, rfl, rfl⟩
  · rw [e]; exact .inl ⟨rfl, rfl, rfl, rfl, rfl, rfl⟩
  · rw [e]; exact .inl ⟨rfl, rfl, rfl, rfl, rfl, rfl⟩
  · rw [e, captured_eq]; exact .inl ⟨rfl, rfl, rfl, rfl, rfl, rfl⟩
  · rw [captured_eq] at e
    rcases completeFrame_cases { captured b s with cursor := s.cursor + 1, pstate := .awaitSync } with
      ⟨_, f⟩ | ⟨_, _, f⟩ | ⟨_, _, _, f⟩ | ⟨_, _, _, f⟩ <;> rw [captured_eq] at f <;> rw [e, f]
    · exact .inl ⟨rfl, rfl, rfl, rfl, rfl, rfl⟩
    · exact .inr (.inr (.inr ⟨rfl, rfl, rfl, rfl, rfl, rfl, rfl⟩))
    · exact .inr (.inl ⟨rfl, rfl, rfl, rfl, rfl, rfl⟩)
    · exact .inr (.inr (.inl ⟨rfl, rfl, rfl, rfl, rfl, rfl, rfl⟩))

end Sys2Proof.Machine
end

