-- ==== Sys2Proof/Laws/Body.lean ====
section
/-! SUPPORT. Runs of body bytes (42_frame_parser.md R132): the cursor as a count, and what a body captures. -/

namespace Sys2Proof.Machine

theorem cursor_succ (c : Nat) : BitVec.ofNat 8 c + 1 = BitVec.ofNat 8 (c + 1) := by
  rw [BitVec.ofNat_add]
  rfl

/-- R132: an index beyond PB writes nothing. -/
theorem setIfInBounds_beyond (v : Vector Byte 24) (c : Nat) (b : Byte) (h : ¬ c < 24) : v.setIfInBounds c b = v := by
  apply Vector.ext
  intro i hi
  simp [Vector.getElem_setIfInBounds]
  intro hc
  omega

theorem captured_pb_eq (b : Byte) (s : State) :
    (captured b s).pb =
      if (captured b s).ptype = acceptType ∧ s.cursor.toNat < payloadCap then s.pb.setIfInBounds s.cursor.toNat b
      else s.pb := by
  have e : (captured b s).ptype = _ := captured_ptype b s
  rw [e]
  exact captured_pb b s

/-- R132: the body byte at index `c` of a frame of `L` body bytes. -/
theorem parseByte_body_at (b : Byte) (s : State) (c L : Nat) (hp : s.pstate = .readPayload)
    (hc : s.cursor = BitVec.ofNat 8 c) (hf : s.flen = BitVec.ofNat 8 L) (hcl : c < L) (hL : L < 256) :
    let t : State := { s with
      ptype := if c = 0 then b else s.ptype
      pb := if (if c = 0 then b else s.ptype) = acceptType then s.pb.setIfInBounds c b else s.pb
      cursor := BitVec.ofNat 8 (c + 1) }
    parseByte b s = if c + 1 = L then completeFrame { t with pstate := .awaitSync } else t := by
  intro t
  have hcn : s.cursor.toNat = c := by rw [hc]; simp; omega
  have hc0 : s.cursor = 0 ↔ c = 0 := by
    constructor
    · intro h; rw [h] at hcn; exact hcn.symm
    · intro h; rw [hc, h]; rfl
  have hpt : (captured b s).ptype = if c = 0 then b else s.ptype := by
    have : (captured b s).ptype = _ := captured_ptype b s
    rw [this]; simp only [hc0]
  have hpb : (captured b s).pb =
      if (if c = 0 then b else s.ptype) = acceptType then s.pb.setIfInBounds c b else s.pb := by
    rw [captured_pb_eq, hpt, hcn]
    by_cases h : (if c = 0 then b else s.ptype) = acceptType
    · rw [if_pos h]
      by_cases h2 : c < 24
      · rw [if_pos ⟨h, h2⟩]
      · rw [if_neg (fun x => h2 x.2), setIfInBounds_beyond _ _ _ h2]
    · rw [if_neg h, if_neg (fun x => h x.1)]
  have hcq : captured b s = { s with
      ptype := if c = 0 then b else s.ptype
      pb := if (if c = 0 then b else s.ptype) = acceptType then s.pb.setIfInBounds c b else s.pb } := by
    rw [captured_eq, hpt, hpb]
  have hs : s.cursor + 1 = BitVec.ofNat 8 (c+1) := by rw [hc, cursor_succ]
  have he : s.cursor + 1 = s.flen ↔ c + 1 = L := by
    rw [hs, hf]
    constructor
    · intro h; have := congrArg BitVec.toNat h; simp at this; omega
    · intro h; rw [h]
  rcases parseByte_cases b s with ⟨h1,_,e⟩|⟨h1,_,e⟩|⟨h1,e⟩|⟨_,h2,e⟩|⟨_,h2,e⟩
  · rw [hp] at h1; cases h1
  · rw [hp] at h1; cases h1
  · rw [hp] at h1; cases h1
  · rw [if_neg (fun x => h2 (he.2 x)), e, hcq, hs]
  · rw [if_pos (he.1 h2), e, hcq, hs]

/-- R132: PB after the bytes `bs` are captured from index `c` on; those beyond PB are discarded. -/
def captureAll (v : Vector Byte 24) : Nat → List Byte → Vector Byte 24
  | _, [] => v
  | c, b :: bs => captureAll (v.setIfInBounds c b) (c + 1) bs

/-- R132: what PB then holds at an index. -/
theorem captureAll_get (bs : List Byte) (v : Vector Byte 24) (c i : Nat) (hi : i < 24) :
    (captureAll v c bs)[i] = if h : c ≤ i ∧ i < c + bs.length then bs[i - c]'(by omega) else v[i] := by
  induction bs generalizing v c with
  | nil => simp [captureAll]
  | cons b bs ih =>
    simp only [captureAll]
    rw [ih]
    by_cases h1 : c + 1 ≤ i ∧ i < c + 1 + bs.length
    · rw [dif_pos h1, dif_pos (by simp; omega)]
      have : i - c = (i - (c+1)) + 1 := by omega
      simp [this]
    · rw [dif_neg h1]
      rw [Vector.getElem_setIfInBounds]
      by_cases h2 : c = i
      · subst h2; simp
      · rw [if_neg h2, dif_neg (by simp; omega)]

/-- R132, R136: the rest of a body, from index `c > 0` to the frame's end. -/
theorem parseBytes_body (bs : List Byte) (s : State) (c L : Nat) (hp : s.pstate = .readPayload)
    (hc : s.cursor = BitVec.ofNat 8 c) (hf : s.flen = BitVec.ofNat 8 L) (hcl : c + bs.length = L) (hL : L < 256)
    (hne : bs ≠ []) (h0 : 0 < c) :
    parseBytes bs s = completeFrame { s with
      pb := if s.ptype = acceptType then captureAll s.pb c bs else s.pb
      cursor := BitVec.ofNat 8 L
      pstate := .awaitSync } := by
  induction bs generalizing s c with
  | nil => exact absurd rfl hne
  | cons b bs ih =>
    have h1 := parseByte_body_at b s c L hp hc hf (by simp at hcl; omega) hL
    have hc0 : ¬ c = 0 := by omega
    simp only [hc0, if_false] at h1
    rw [parseBytes_cons, h1]
    cases bs with
    | nil =>
      have : c + 1 = L := by simpa using hcl
      rw [if_pos this, parseBytes_nil, ← this]; rfl
    | cons b2 bs =>
      have : ¬ c + 1 = L := by simp at hcl; omega
      rw [if_neg this]
      refine (ih { s with
        pb := if s.ptype = acceptType then s.pb.setIfInBounds c b else s.pb, cursor := BitVec.ofNat 8 (c + 1) }
        (c + 1) hp rfl hf (by simp at hcl ⊢; omega) (by simp) (by omega)).trans ?_
      by_cases ha : s.ptype = acceptType
      · simp only [ha, if_true]; rfl
      · simp only [ha, if_false]

end Sys2Proof.Machine
end

