-- ==== Sys2Proof/Laws/Crc.lean ====
section
/-! SUPPORT. The small laws of the CRC engine (43_crc8.md R160-R166): each bit step is linear and loses nothing, and
so is the byte step. -/

namespace Sys2Proof.Machine

/-- R160: a bit step of an exclusive OR is the exclusive OR of the bit steps. -/
theorem crcShift_xor (p a b : Byte) : crcShift (a ^^^ b) p = crcShift a p ^^^ crcShift b p := by
  unfold crcShift
  rw [BitVec.getLsbD_xor, BitVec.shiftLeft_xor_distrib]
  cases a.getLsbD 7 <;> cases b.getLsbD 7 <;> simp
  · rw [BitVec.xor_assoc]
  · rw [BitVec.xor_assoc, BitVec.xor_assoc, BitVec.xor_comm p]
  · rw [BitVec.xor_assoc, ← BitVec.xor_assoc p, BitVec.xor_comm p, BitVec.xor_assoc, BitVec.xor_self, BitVec.xor_zero]

@[simp] theorem crcShift_zero (p : Byte) : crcShift 0#8 p = 0#8 := by simp [crcShift]

/-- R161: `n` bit steps are linear. -/
theorem crcShifts_xor (p : Byte) (n : Nat) (a b : Byte) :
    crcShifts p n (a ^^^ b) = crcShifts p n a ^^^ crcShifts p n b := by
  induction n generalizing a b with
  | zero => rfl
  | succ n ih => rw [crcShifts, crcShift_xor, ih]; rfl

@[simp] theorem crcShifts_zero (p : Byte) (n : Nat) : crcShifts p n 0#8 = 0#8 := by
  induction n with
  | zero => rfl
  | succ n ih => rw [crcShifts, crcShift_zero, ih]

/-- R164: with the odd polynomial POLY, a bit step maps only 0 to 0: bit 0 of the result is the bit shifted out. -/
theorem crcShift_eq_zero (r : Byte) : crcShift r poly = 0#8 ↔ r = 0#8 := by
  revert r; decide +kernel

theorem crcShifts_eq_zero (n : Nat) (r : Byte) : crcShifts poly n r = 0#8 ↔ r = 0#8 := by
  induction n generalizing r with
  | zero => rfl
  | succ n ih => rw [crcShifts, ih, crcShift_eq_zero]

/-- R164: the byte steps lose nothing. -/
theorem crcShifts_injective (n : Nat) (a b : Byte) : crcShifts poly n a = crcShifts poly n b ↔ a = b := by
  rw [← BitVec.xor_eq_zero_iff, ← crcShifts_xor, crcShifts_eq_zero, BitVec.xor_eq_zero_iff]

/-- R161, R162: crc8 of a sequence with one more byte. -/
theorem crc8_append_one (bytes : List Byte) (b : Byte) :
    crc8 (bytes ++ [b]) = crcShifts poly 8 (crc8 bytes ^^^ b) := by
  simp [crc8, crc8With, crcByte, List.foldl_append]

@[simp] theorem crc8_nil : crc8 [] = 0#8 := rfl

end Sys2Proof.Machine
end

