-- ==== Sys2Proof/Laws/Decode.lean ====
section
/-! SUPPORT. The fields of an event word and of a parser input word, read back (30_encoding.md R77, R82). -/

namespace Sys2Proof

/-- R77: a bit of an event word, by the field it lies in. -/
theorem getLsbD_eventWord (o : BitVec 4) (d : BitVec 16) (b : Byte) (i : Nat) (hi : i < 32) :
    (eventWord o d b).getLsbD i =
      if i < 8 then b.getLsbD i else if i < 24 then d.getLsbD (i - 8)
      else if i < 28 then false else o.getLsbD (i - 28) := by
  simp only [eventWord, BitVec.getLsbD_or, BitVec.getLsbD_shiftLeft, BitVec.getLsbD_setWidth]
  by_cases h1 : i < 8
  · have : i < 28 := by omega
    simp [h1, this, hi]
  · by_cases h2 : i < 24
    · have : i < 28 := by omega
      have : i - 8 < 32 := by omega
      have : b.getLsbD i = false := BitVec.getLsbD_of_ge b i (by omega)
      simp [*]
    · have h3 : b.getLsbD i = false := BitVec.getLsbD_of_ge b i (by omega)
      have h4 : d.getLsbD (i - 8) = false := BitVec.getLsbD_of_ge d (i - 8) (by omega)
      by_cases h5 : i < 28
      · simp [*]
      · have : i - 28 < 32 := by omega
        simp [*]

/-- R82: a bit of a parser input word. -/
theorem getLsbD_pinWord (c : BitVec 2) (b : Byte) (i : Nat) (hi : i < 10) :
    (pinWord c b).getLsbD i = if i < 8 then b.getLsbD i else c.getLsbD (i - 8) := by
  simp only [pinWord, BitVec.getLsbD_or, BitVec.getLsbD_shiftLeft, BitVec.getLsbD_setWidth]
  by_cases h1 : i < 8
  · simp [h1, hi]
  · have h3 : b.getLsbD i = false := BitVec.getLsbD_of_ge b i (by omega)
    have : i - 8 < 10 := by omega
    simp [*]

@[simp] theorem eventOpc_eventWord (o : BitVec 4) (d : BitVec 16) (b : Byte) : eventOpc (eventWord o d b) = o := by
  apply BitVec.eq_of_getLsbD_eq
  intro i hi
  have h1 : ¬ 28 + i < 8 := by omega
  have h2 : ¬ 28 + i < 24 := by omega
  have h3 : ¬ 28 + i < 28 := by omega
  rw [eventOpc, BitVec.getLsbD_extractLsb', getLsbD_eventWord _ _ _ _ (by omega)]
  simp [hi, h1, h2]

@[simp] theorem eventByte_eventWord (o : BitVec 4) (d : BitVec 16) (b : Byte) : eventByte (eventWord o d b) = b := by
  apply BitVec.eq_of_getLsbD_eq
  intro i hi
  rw [eventByte, BitVec.getLsbD_extractLsb', getLsbD_eventWord _ _ _ _ (by omega)]
  simp [hi]

@[simp] theorem eventData_eventWord (o : BitVec 4) (d : BitVec 16) (b : Byte) : eventData (eventWord o d b) = d := by
  apply BitVec.eq_of_getLsbD_eq
  intro i hi
  have h1 : ¬ 8 + i < 8 := by omega
  have h2 : 8 + i < 24 := by omega
  rw [eventData, BitVec.getLsbD_extractLsb', getLsbD_eventWord _ _ _ _ (by omega)]
  simp [hi, h2]

/-- R77: the must-be-zero field [27:24] of an event word built from its fields. -/
@[simp] theorem zeroField_eventWord (o : BitVec 4) (d : BitVec 16) (b : Byte) :
    (eventWord o d b).extractLsb' 24 4 = 0#4 := by
  apply BitVec.eq_of_getLsbD_eq
  intro i hi
  have h1 : ¬ 24 + i < 8 := by omega
  have h2 : ¬ 24 + i < 24 := by omega
  have h3 : 24 + i < 28 := by omega
  rw [BitVec.getLsbD_extractLsb', getLsbD_eventWord _ _ _ _ (by omega)]
  simp [h1, h3]

/-- R77: bits [27:8] are zero when the data field is. -/
@[simp] theorem zeroData_eventWord (o : BitVec 4) (b : Byte) : (eventWord o 0#16 b).extractLsb' 8 20 = 0#20 := by
  apply BitVec.eq_of_getLsbD_eq
  intro i hi
  have h1 : ¬ 8 + i < 8 := by omega
  have h3 : 8 + i < 28 := by omega
  rw [BitVec.getLsbD_extractLsb', getLsbD_eventWord _ _ _ _ (by omega)]
  simp [h3]

/-- R77: the low two bits of the offset are those of the word. -/
theorem lowBits_eventWord (o : BitVec 4) (d : BitVec 16) (b : Byte) :
    (eventWord o d b).extractLsb' 0 2 = b.extractLsb' 0 2 := by
  apply BitVec.eq_of_getLsbD_eq
  intro i hi
  have h1 : i < 8 := by omega
  rw [BitVec.getLsbD_extractLsb', getLsbD_eventWord _ _ _ _ (by omega)]
  simp [h1]

/-- Two words are equal when their bits are. -/
theorem eq_iff_bits (n : Nat) (x y : BitVec n) : x = y ↔ ∀ i, i < n → x.getLsbD i = y.getLsbD i :=
  ⟨fun h _ _ => by rw [h], fun h => BitVec.eq_of_getLsbD_eq fun i hi => h i hi⟩

/-- R78: the RXB row, as the fields of R77. -/
theorem row_RXB (w : Word) : w &&& 0xFFFFFF00 = 0x10000000 ↔ eventOpc w = 1#4 ∧ w.extractLsb' 8 20 = 0#20 := by
  simp only [eventOpc, eq_iff_bits, BitVec.getLsbD_and, BitVec.getLsbD_extractLsb', Nat.forall_lt_succ_right,
    Nat.not_lt_zero, false_implies, implies_true, true_and]
  simp
  try tauto

/-- R78: the TINC row, as the fields of R77. -/
theorem row_TINC (w : Word) : w &&& 0xFFFFFFFF = 0x20000000 ↔ eventOpc w = 2#4 ∧ w.extractLsb' 0 28 = 0#28 := by
  simp only [eventOpc, eq_iff_bits, BitVec.getLsbD_and, BitVec.getLsbD_extractLsb', Nat.forall_lt_succ_right,
    Nat.not_lt_zero, false_implies, implies_true, true_and]
  simp
  try tauto

/-- R78: the TACK row, as the fields of R77. -/
theorem row_TACK (w : Word) : w &&& 0xFFFFFFFF = 0x30000000 ↔ eventOpc w = 3#4 ∧ w.extractLsb' 0 28 = 0#28 := by
  simp only [eventOpc, eq_iff_bits, BitVec.getLsbD_and, BitVec.getLsbD_extractLsb', Nat.forall_lt_succ_right,
    Nat.not_lt_zero, false_implies, implies_true, true_and]
  simp
  try tauto

/-- R78: the DSNAP row, as the fields of R77. -/
theorem row_DSNAP (w : Word) : w &&& 0xFFFFFFFF = 0x40000000 ↔ eventOpc w = 4#4 ∧ w.extractLsb' 0 28 = 0#28 := by
  simp only [eventOpc, eq_iff_bits, BitVec.getLsbD_and, BitVec.getLsbD_extractLsb', Nat.forall_lt_succ_right,
    Nat.not_lt_zero, false_implies, implies_true, true_and]
  simp
  try tauto

/-- R78: the PSTEP row, as the fields of R77. -/
theorem row_PSTEP (w : Word) : w &&& 0xFFFFFFFF = 0x50000000 ↔ eventOpc w = 5#4 ∧ w.extractLsb' 0 28 = 0#28 := by
  simp only [eventOpc, eq_iff_bits, BitVec.getLsbD_and, BitVec.getLsbD_extractLsb', Nat.forall_lt_succ_right,
    Nat.not_lt_zero, false_implies, implies_true, true_and]
  simp
  try tauto

/-- R78: the DEND row, as the fields of R77. -/
theorem row_DEND (w : Word) : w &&& 0xFFFFFFFF = 0x60000000 ↔ eventOpc w = 6#4 ∧ w.extractLsb' 0 28 = 0#28 := by
  simp only [eventOpc, eq_iff_bits, BitVec.getLsbD_and, BitVec.getLsbD_extractLsb', Nat.forall_lt_succ_right,
    Nat.not_lt_zero, false_implies, implies_true, true_and]
  simp
  try tauto

/-- R78: the BRD row, as the fields of R77. -/
theorem row_BRD (w : Word) : w &&& 0xFFFFFF03 = 0x70000000 ↔ eventOpc w = 7#4 ∧ w.extractLsb' 8 20 = 0#20 ∧ w.extractLsb' 0 2 = 0#2 := by
  simp only [eventOpc, eq_iff_bits, BitVec.getLsbD_and, BitVec.getLsbD_extractLsb', Nat.forall_lt_succ_right,
    Nat.not_lt_zero, false_implies, implies_true, true_and]
  simp
  try tauto

/-- R78: the BWR row, as the fields of R77. -/
theorem row_BWR (w : Word) : w &&& 0xFF000003 = 0x80000000 ↔ eventOpc w = 8#4 ∧ w.extractLsb' 24 4 = 0#4 ∧ w.extractLsb' 0 2 = 0#2 := by
  simp only [eventOpc, eq_iff_bits, BitVec.getLsbD_and, BitVec.getLsbD_extractLsb', Nat.forall_lt_succ_right,
    Nat.not_lt_zero, false_implies, implies_true, true_and]
  simp
  try tauto

/-- R78: the RST row, as the fields of R77. -/
theorem row_RST (w : Word) : w &&& 0xFFFFFFFF = 0xF0000000 ↔ eventOpc w = 15#4 ∧ w.extractLsb' 0 28 = 0#28 := by
  simp only [eventOpc, eq_iff_bits, BitVec.getLsbD_and, BitVec.getLsbD_extractLsb', Nat.forall_lt_succ_right,
    Nat.not_lt_zero, false_implies, implies_true, true_and]
  simp
  try tauto

/-- R77: off[1:0] = 00 says that the offset is a multiple of 4. -/
theorem lowBits_eq_zero (b : Byte) : b.extractLsb' 0 2 = 0#2 ↔ b.toNat % 4 = 0 := by
  revert b; decide +kernel

/-- R77: bits [27:0] are zero when both fields are. -/
@[simp] theorem zeroAll_eventWord (o : BitVec 4) : (eventWord o 0#16 0#8).extractLsb' 0 28 = 0#28 := by
  apply BitVec.eq_of_getLsbD_eq
  intro i hi
  rw [BitVec.getLsbD_extractLsb', getLsbD_eventWord _ _ _ _ (by omega)]
  simp [hi]

@[simp] theorem byte_pinWord (c : BitVec 2) (b : Byte) : (pinWord c b).extractLsb' 0 8 = b := by
  apply BitVec.eq_of_getLsbD_eq
  intro i hi
  rw [BitVec.getLsbD_extractLsb', getLsbD_pinWord _ _ _ (by omega)]
  simp [hi]

@[simp] theorem state_pinWord (c : BitVec 2) (b : Byte) : (pinWord c b).extractLsb' 8 2 = c := by
  apply BitVec.eq_of_getLsbD_eq
  intro i hi
  have h1 : ¬ 8 + i < 8 := by omega
  rw [BitVec.getLsbD_extractLsb', getLsbD_pinWord _ _ _ (by omega)]
  simp [hi]

/-- R77: the three fields of a word spell all of it but bits [27:24]. -/
theorem eventWord_fields (w : Word) : eventWord (eventOpc w) (eventData w) (eventByte w) = w &&& 0xF0FFFFFF := by
  apply BitVec.eq_of_getLsbD_eq
  intro i hi
  rw [getLsbD_eventWord _ _ _ _ hi]
  simp only [eventOpc, eventData, eventByte, BitVec.getLsbD_extractLsb', BitVec.getLsbD_and]
  interval_cases i <;> simp

/-- R77: a word with bits [27:24] zero is its three fields. -/
theorem eq_eventWord (w : Word) (h : w.extractLsb' 24 4 = 0#4) :
    w = eventWord (eventOpc w) (eventData w) (eventByte w) := by
  rw [eventWord_fields]
  rw [eq_iff_bits] at h
  apply BitVec.eq_of_getLsbD_eq
  intro i hi
  have a := h 0 (by omega); have b := h 1 (by omega); have c := h 2 (by omega); have d := h 3 (by omega)
  simp at a b c d
  simp only [BitVec.getLsbD_and]
  interval_cases i <;> simp [*]

/-- R77, formats EB and EA. -/
theorem zero_of_byteOperand (w : Word) (h : w.extractLsb' 8 20 = 0#20) : w.extractLsb' 24 4 = 0#4 ∧ eventData w = 0#16 := by
  rw [eq_iff_bits] at h
  constructor
  · apply BitVec.eq_of_getLsbD_eq; intro i hi; have := h (16+i) (by omega)
    simp [show 16+i<20 by omega, ← Nat.add_assoc] at this
    simp [hi, this]
  · apply BitVec.eq_of_getLsbD_eq; intro i hi; have := h (i) (by omega)
    simp [show i<20 by omega] at this
    simp [eventData, hi, this]

/-- R77, format EN. -/
theorem zero_of_noOperand (w : Word) (h : w.extractLsb' 0 28 = 0#28) :
    w.extractLsb' 24 4 = 0#4 ∧ eventData w = 0#16 ∧ eventByte w = 0#8 := by
  rw [eq_iff_bits] at h
  refine ⟨?_, ?_, ?_⟩
  · apply BitVec.eq_of_getLsbD_eq; intro i hi; have := h (24+i) (by omega)
    simp [show 24+i<28 by omega] at this
    simp [hi, this]
  · apply BitVec.eq_of_getLsbD_eq; intro i hi; have := h (8+i) (by omega)
    simp [show 8+i<28 by omega] at this
    simp [eventData, hi, this]
  · apply BitVec.eq_of_getLsbD_eq; intro i hi; have := h (i) (by omega)
    simp [show i<28 by omega] at this
    simp [eventByte, hi, this]

/-- R77: the low bits of a word are those of its byte field. -/
theorem lowBits_eq_byte (w : Word) : w.extractLsb' 0 2 = (eventByte w).extractLsb' 0 2 := by
  apply BitVec.eq_of_getLsbD_eq; intro i hi
  simp [eventByte, hi]

theorem noOperand_ok (w : Word) (i j : Instr) (h : noOperand w i = .ok j) :
    w.extractLsb' 0 28 = 0#28 ∧ j = i := by
  unfold noOperand at h; split at h
  · cases h; exact ⟨‹_›, rfl⟩
  · cases h

theorem byteOperand_ok (w : Word) (i j : Instr) (h : byteOperand w i = .ok j) :
    w.extractLsb' 8 20 = 0#20 ∧ j = i := by
  unfold byteOperand at h; split at h
  · cases h; exact ⟨‹_›, rfl⟩
  · cases h

theorem writeOperand_ok (w : Word) (i j : Instr) (h : writeOperand w i = .ok j) :
    w.extractLsb' 24 4 = 0#4 ∧ j = i := by
  unfold writeOperand at h; split at h
  · cases h; exact ⟨‹_›, rfl⟩
  · cases h

theorem alignedOffset_ok (w : Word) (r : Except DecodeError Instr) (j : Instr) (h : alignedOffset w r = .ok j) :
    (eventByte w).toNat % 4 = 0 ∧ r = .ok j := by
  unfold alignedOffset at h; split at h
  · next h' => rw [lowBits_eq_byte] at h'; exact ⟨(lowBits_eq_zero _).1 h', h⟩
  · cases h

end Sys2Proof
end

