-- ==== Sys2Proof/Laws/Memory.lean ====
section
/-! SUPPORT. The laws of the byte arrays: a read after a write gives the value written, a write leaves every other index
alone, and every write keeps the canonical form and the bounds. -/

namespace Sys2Proof.Machine

@[simp] theorem read_nil (i : Nat) : Memory.read [] i = 0 := rfl

/-- An index below every listed one reads as unlisted. -/
theorem read_below (m : Memory) (l i : Nat) (h : Memory.wfAbove m (some l) = true) (hi : i ≤ l) :
    Memory.read m i = Memory.unlisted := by
  induction m generalizing l with
  | nil => rfl
  | cons c m ih =>
    obtain ⟨a, b⟩ := c
    simp only [Memory.wfAbove, Bool.and_eq_true, decide_eq_true_eq] at h
    have hne : i ≠ a := by omega
    simp only [Memory.read, hne, if_false]
    exact ih a h.2 (by omega)

/-- R12: a read of another index is not changed by a write (no form needed). -/
theorem read_write_ne (m : Memory) (i j : Nat) (v : Byte) (h : j ≠ i) :
    Memory.read (Memory.write m i v) j = Memory.read m j := by
  induction m with
  | nil =>
    simp only [Memory.write]
    split <;> simp [Memory.read, h]
  | cons c m ih =>
    obtain ⟨a, b⟩ := c
    simp only [Memory.write]
    split
    · split <;> simp [Memory.read, h]
    · split
      · next hia => subst hia; split <;> simp [Memory.read, h]
      · simp only [Memory.read, ih]

/-- R12: a read of the index just written gives the value written, in the canonical form. -/
theorem read_write_same (m : Memory) (i : Nat) (v : Byte) (lo : Option Nat) (h : Memory.wfAbove m lo = true) :
    Memory.read (Memory.write m i v) i = v := by
  induction m generalizing lo with
  | nil =>
    simp only [Memory.write]
    split <;> simp_all [Memory.read]
  | cons c m ih =>
    obtain ⟨a, b⟩ := c
    simp only [Memory.wfAbove, Bool.and_eq_true] at h
    simp only [Memory.write]
    split
    · next hlt =>
      split
      · next hv =>
        have hne : i ≠ a := by omega
        simp only [Memory.read, hne, if_false, hv]
        exact read_below m a i h.2 (by omega)
      · simp [Memory.read]
    · split
      · next hia =>
        subst hia
        split
        · next hv => rw [read_below m i i h.2 (Nat.le_refl i), hv]
        · simp [Memory.read]
      · next hia =>
        simp only [Memory.read, hia, if_false]
        exact ih (some a) h.2

/-- A write at an index above the bound keeps the form above the bound. -/
theorem wfAbove_write (m : Memory) (i : Nat) (v : Byte) (lo : Option Nat) (h : Memory.wfAbove m lo = true)
    (hlo : ∀ l, lo = some l → l < i) : Memory.wfAbove (Memory.write m i v) lo = true := by
  induction m generalizing lo with
  | nil =>
    simp only [Memory.write]
    split
    · rfl
    · cases lo with
      | none => simp_all [Memory.wfAbove]
      | some l => have := hlo l rfl; simp_all [Memory.wfAbove]
  | cons c m ih =>
    obtain ⟨a, b⟩ := c
    have h' := h
    simp only [Memory.wfAbove, Bool.and_eq_true] at h'
    obtain ⟨⟨h1, h2⟩, h3⟩ := h'
    simp only [Memory.write]
    split
    · next hlt =>
      split
      · exact h
      · next hv =>
        cases lo with
        | none => simp_all [Memory.wfAbove]
        | some l => have := hlo l rfl; simp_all [Memory.wfAbove]
    · split
      · next hia =>
        subst hia
        split
        · cases lo with
          | none =>
            cases m with
            | nil => rfl
            | cons d m => simp_all [Memory.wfAbove]
          | some l =>
            have := hlo l rfl
            cases m with
            | nil => rfl
            | cons d m =>
              obtain ⟨e, f⟩ := d
              simp only [Memory.wfAbove, Bool.and_eq_true, decide_eq_true_eq] at h3 ⊢
              exact ⟨⟨by omega, h3.1.2⟩, h3.2⟩
        · next hv =>
          simp only [Memory.wfAbove, Bool.and_eq_true]
          exact ⟨⟨h1, by simpa using hv⟩, h3⟩
      · next hia =>
        simp only [Memory.wfAbove, Bool.and_eq_true]
        exact ⟨⟨h1, h2⟩, ih (some a) h3 (by intro l hl; cases hl; omega)⟩

/-- Every write keeps the canonical form. -/
theorem wf_write (m : Memory) (i : Nat) (v : Byte) (h : Memory.wf m = true) :
    Memory.wf (Memory.write m i v) = true :=
  wfAbove_write m i v none h (by simp)

@[simp] theorem wf_nil : Memory.wf [] = true := rfl

theorem within_cons (n a : Nat) (b : Byte) (m : Memory) :
    Memory.within n ((a, b) :: m) = (decide (a < n) && Memory.within n m) := rfl

/-- A write inside the bound keeps the array inside the bound. -/
theorem within_write (m : Memory) (i n : Nat) (v : Byte) (h : Memory.within n m = true) (hi : i < n) :
    Memory.within n (Memory.write m i v) = true := by
  induction m with
  | nil =>
    simp only [Memory.write]
    split <;> simp [Memory.within, hi]
  | cons c m ih =>
    obtain ⟨a, b⟩ := c
    rw [within_cons, Bool.and_eq_true, decide_eq_true_eq] at h
    simp only [Memory.write]
    split
    · split <;> simp only [within_cons, h, hi, decide_true, Bool.and_self]
    · split
      · split <;> simp only [within_cons, h, decide_true, Bool.and_self]
      · simp only [within_cons, h, ih h.2, decide_true, Bool.and_self]

@[simp] theorem within_nil (n : Nat) : Memory.within n [] = true := rfl

end Sys2Proof.Machine
end

