-- ==== Sys2Proof/Laws/Exec.lean ====
section
/-! SUPPORT. One inversion lemma per instruction: when `exec` answers a next state, what its guard was and what the next
state is. Later proofs cite these and never unfold a meaning. -/

namespace Sys2Proof.Machine

theorem next_eq_next (s t : State) : (Host.Outcome.next s : Result) = .next t ↔ t = s := by
  constructor
  · intro h; cases h; rfl
  · intro h; rw [h]

theorem intakeAppend_next (b : Byte) (s t : State) :
    intakeAppend b s = .next t ↔
      s.level < s.cfg.intakeCap ∧ t = { s with ib := Memory.write s.ib s.level b, level := s.level + 1 } := by
  unfold intakeAppend
  split <;> simp_all [eq_comm]

theorem intakeSnapshot_next (s t : State) :
    intakeSnapshot s = .next t ↔
      s.level ≤ s.cfg.intakeCap ∧ t = { s with wq := intakeHeld s, level := 0, tph := .parsing } := by
  unfold intakeSnapshot
  split
  · simp_all [eq_comm]
  · constructor
    · intro h; cases h
    · intro h; exact absurd h.1 (by assumption)

/-- R100, R101: the two cases of RXB. -/
theorem exec_rxb_next (b : Byte) (s t : State) :
    exec (.rxb b) s = .next t ↔
      (s.level = s.cfg.intakeCap ∧ 0 < s.cfg.intakeCap ∧
        t = { recordOverflow s with ib := Memory.write s.ib 0 b, level := 1 }) ∨
      (s.level < s.cfg.intakeCap ∧ t = { s with ib := Memory.write s.ib s.level b, level := s.level + 1 }) := by
  have e : exec (.rxb b) s = intakeAppend b (if s.level = s.cfg.intakeCap then intakeOverflow s else s) := rfl
  rw [e]
  by_cases h : s.level = s.cfg.intakeCap
  · rw [if_pos h, intakeAppend_next]
    constructor
    · rintro ⟨h1, h2⟩
      exact .inl ⟨h, h1, h2⟩
    · rintro (⟨_, h1, h2⟩ | ⟨h1, _⟩)
      · exact ⟨h1, h2⟩
      · omega
  · rw [if_neg h, intakeAppend_next]
    constructor
    · exact .inr
    · rintro (⟨h1, _⟩ | h1)
      · exact absurd h1 h
      · exact h1

theorem exec_tinc (s : State) : exec .tinc s = .next (timerTick s) := rfl

/-- R110: the two cases of TINC. -/
theorem timerTick_cases (s : State) :
    (s.armed = true ∧ s.count + 1 = s.alarm ∧
      timerTick s = { s with count := s.count + 1, pending := true, armed := false }) ∨
    ((s.armed = false ∨ s.count + 1 ≠ s.alarm) ∧ timerTick s = { s with count := s.count + 1 }) := by
  unfold timerTick
  split
  · next h => exact .inl ⟨h.1, h.2, rfl⟩
  · next h =>
    refine .inr ⟨?_, rfl⟩
    cases ha : s.armed
    · exact .inl rfl
    · exact .inr fun hc => h ⟨ha, hc⟩

/-- R112. -/
theorem exec_tack_next (s t : State) :
    exec .tack s = .next t ↔ s.pending = true ∧ s.tph = .idle ∧ t = acknowledgeTick s := by
  have e : exec .tack s = if tackEnabled s then .next (acknowledgeTick s) else .fault .tackNotEnabled := rfl
  rw [e]
  split
  · next h =>
    have h : s.pending = true ∧ s.tph = .idle := by simpa [tackEnabled] using h
    rw [next_eq_next]
    exact ⟨fun e => ⟨h.1, h.2, e⟩, fun e => e.2.2⟩
  · next h =>
    simp only [reduceCtorEq, false_iff, not_and]
    intro h1 h2
    simp [tackEnabled, h1, h2] at h

/-- R113. -/
theorem exec_dsnap_next (s t : State) :
    exec .dsnap s = .next t ↔
      s.tph = .due ∧ s.level ≤ s.cfg.intakeCap ∧ t = { s with wq := intakeHeld s, level := 0, tph := .parsing } := by
  have e : exec .dsnap s = if dsnapEnabled s then intakeSnapshot s else .fault .dsnapNotEnabled := rfl
  rw [e]
  split
  · next h => rw [intakeSnapshot_next]; simp_all [dsnapEnabled]
  · next h => simp_all [dsnapEnabled]

/-- R114. -/
theorem exec_pstep_next (s t : State) :
    exec .pstep s = .next t ↔
      s.tph = .parsing ∧ ∃ b rest, s.wq = b :: rest ∧ t = parseByte b { s with wq := rest } := by
  have e : exec .pstep s = execPstep s := rfl
  rw [e, execPstep]
  split
  · next h =>
    cases hw : s.wq with
    | nil => simp
    | cons b rest =>
      simp only [next_eq_next]
      constructor
      · intro e; exact ⟨h, b, rest, rfl, e⟩
      · rintro ⟨_, b', rest', hw', e⟩; cases hw'; exact e
  · next h => simp [h]

/-- R114: a PSTEP that is enabled. -/
theorem exec_pstep_cons (s : State) (b : Byte) (rest : List Byte) (h : s.tph = .parsing) (hw : s.wq = b :: rest) :
    exec .pstep s = .next (parseByte b { s with wq := rest }) :=
  (exec_pstep_next s _).2 ⟨h, b, rest, hw, rfl⟩

/-- R115. -/
theorem exec_dend_next (s t : State) :
    exec .dend s = .next t ↔ s.tph = .parsing ∧ s.wq = [] ∧ t = endTick s := by
  have e : exec .dend s = if dendEnabled s then .next (endTick s) else .fault .dendNotEnabled := rfl
  rw [e]
  split
  · next h =>
    have h : s.tph = .parsing ∧ s.wq = [] := by simpa [dendEnabled] using h
    rw [next_eq_next]
    exact ⟨fun e => ⟨h.1, h.2, e⟩, fun e => e.2.2⟩
  · next h =>
    simp only [reduceCtorEq, false_iff, not_and]
    intro h1 h2
    simp [dendEnabled, h1, h2] at h

/-- R182. -/
theorem exec_brd_next (off : Byte) (s t : State) :
    exec (.brd off) s = .next t ↔ off.toNat % 4 = 0 ∧ t = returnToHost (regRead s off) s := by
  have e : exec (.brd off) s =
    if alignedOff off then .next (returnToHost (regRead s off) s) else .refused .misaligned := rfl
  rw [e]
  split
  · next h =>
    have h : off.toNat % 4 = 0 := by simpa [alignedOff] using h
    rw [next_eq_next]
    exact ⟨fun e => ⟨h, e⟩, fun e => e.2⟩
  · next h =>
    simp only [reduceCtorEq, false_iff, not_and]
    intro h1
    simp [alignedOff, h1] at h

/-- R183: the register at 0x40 is STATUS, and no other offset's is. -/
theorem registerAt_status (off : Byte) : registerAt off = .status ↔ off = 0x40 := by
  revert off; decide +kernel

/-- R183: a write changes STATUS or nothing. -/
theorem regWrite_cases (v : Word) (off : Byte) (s : State) :
    (off = 0x40 ∧ regWrite v off s = statusW1C v s) ∨ (off ≠ 0x40 ∧ regWrite v off s = s) := by
  have h := registerAt_status off
  unfold regWrite
  by_cases ho : off = 0x40
  · rw [h.2 ho]; exact .inl ⟨ho, rfl⟩
  · refine .inr ⟨ho, ?_⟩
    cases hr : registerAt off <;> first | rfl | exact absurd (h.1 hr) ho

/-- R183. -/
theorem exec_bwr_next (off : Byte) (data : BitVec 16) (s t : State) :
    exec (.bwr off data) s = .next t ↔ off.toNat % 4 = 0 ∧ t = regWrite (writeValue data) off s := by
  have e : exec (.bwr off data) s =
    if alignedOff off then .next (regWrite (writeValue data) off s) else .refused .misaligned := rfl
  rw [e]
  split
  · next h =>
    have h : off.toNat % 4 = 0 := by simpa [alignedOff] using h
    rw [next_eq_next]
    exact ⟨fun e => ⟨h, e⟩, fun e => e.2⟩
  · next h =>
    simp only [reduceCtorEq, false_iff, not_and]
    intro h1
    simp [alignedOff, h1] at h

theorem exec_rst (s : State) : exec .rst s = .next (resetCore s) := rfl

/-- R82, R131: a class meaning is `ParseByte` of a byte that selects its row. -/
theorem exec_syncHit_next (s t : State) :
    exec .syncHit s = .next t ↔ s.pstate = .awaitSync ∧ t = parseByte syncByte s := by
  have e : exec .syncHit s = execSyncHit s := rfl
  rw [e, execSyncHit]
  split
  · next h =>
    have hp : parseByte syncByte s = { s with pstate := .readLen } := by
      simp only [parseByte, h, syncCandidate, if_true]
    rw [hp, next_eq_next]
    exact ⟨fun e => ⟨h, e⟩, fun e => e.2⟩
  · next h => simp [h]

theorem exec_syncMiss_next (b : Byte) (s t : State) :
    exec (.syncMiss b) s = .next t ↔ s.pstate = .awaitSync ∧ b ≠ syncByte ∧ t = parseByte b s := by
  have e : exec (.syncMiss b) s = execSyncMiss b s := rfl
  rw [e, execSyncMiss]
  split
  · next h =>
    have hp : parseByte b s = s := by simp only [parseByte, h.1, syncCandidate, if_neg h.2]
    rw [hp, next_eq_next]
    exact ⟨fun e => ⟨h.1, h.2, e⟩, fun e => e.2.2⟩
  · next h =>
    simp only [reduceCtorEq, false_iff]
    rintro ⟨h1, h2, _⟩
    exact h ⟨h1, h2⟩

theorem exec_lenZero_next (s t : State) :
    exec .lenZero s = .next t ↔ s.pstate = .readLen ∧ t = parseByte 0 s := by
  have e : exec .lenZero s = execLenZero s := rfl
  rw [e, execLenZero]
  split
  · next h =>
    have hp : parseByte 0 s = { s with flen := 0, cursor := 0, pstate := .awaitSync } := by
      simp only [parseByte, h, lengthByte, if_true]
    rw [hp, next_eq_next]
    exact ⟨fun e => ⟨h, e⟩, fun e => e.2⟩
  · next h => simp [h]

theorem exec_len_next (b : Byte) (s t : State) :
    exec (.len b) s = .next t ↔ s.pstate = .readLen ∧ b ≠ 0 ∧ t = parseByte b s := by
  have e : exec (.len b) s = execLen b s := rfl
  rw [e, execLen]
  split
  · next h =>
    obtain ⟨h1, h2⟩ := h
    have hp : parseByte b s = { s with flen := b, cursor := 0, pstate := .readPayload } := by
      simp only [parseByte, h1, lengthByte, if_neg h2]
    rw [hp, next_eq_next]
    exact ⟨fun e => ⟨h1, h2, e⟩, fun e => e.2.2⟩
  · next h =>
    simp only [reduceCtorEq, false_iff]
    rintro ⟨h1, h2, _⟩
    exact h ⟨h1, h2⟩

theorem exec_body_next (b : Byte) (s t : State) :
    exec (.body b) s = .next t ↔ s.pstate = .readPayload ∧ t = parseByte b s := by
  have e : exec (.body b) s = execBody b s := rfl
  rw [e, execBody]
  split
  · next h =>
    have hp : parseByte b s = bodyByte b s := by simp only [parseByte, h]
    rw [hp, next_eq_next]
    exact ⟨fun e => ⟨h, e⟩, fun e => e.2⟩
  · next h => simp [h]

/-- R72, R132: TYPE_ACCEPT is the body byte 0x16 at CURSOR = 0. -/
theorem typeAccept_eq_body (s : State) (h : s.cursor = 0) :
    advanceCursor (captureByte 0 acceptType { s with ptype := acceptType }) = bodyByte acceptType s := by
  have e : latchType acceptType s = { s with ptype := acceptType } := by simp [latchType, h]
  rw [bodyByte, e, captureBody, if_pos rfl]
  congr 2
  exact h.symm

theorem exec_typeAccept_next (s t : State) :
    exec .typeAccept s = .next t ↔ s.pstate = .readPayload ∧ s.cursor = 0 ∧ t = parseByte acceptType s := by
  have e : exec .typeAccept s = execTypeAccept s := rfl
  rw [e, execTypeAccept]
  split
  · next h =>
    rw [typeAccept_eq_body s h.2]
    have hp : parseByte acceptType s = bodyByte acceptType s := by simp [parseByte, h.1]
    rw [hp]
    constructor
    · intro hn; cases hn; exact ⟨h.1, h.2, rfl⟩
    · rintro ⟨_, _, rfl⟩; rfl
  · next h =>
    simp only [reduceCtorEq, false_iff]
    rintro ⟨h1, h2, _⟩
    exact h ⟨h1, h2⟩

/-- R72, R132, R140: TYPE_OTHER is any other body byte at CURSOR = 0. -/
theorem typeOther_eq_body (b : Byte) (s : State) (h : s.cursor = 0) (hb : b ≠ acceptType) :
    advanceCursor { s with ptype := b } = bodyByte b s := by
  have e : latchType b s = { s with ptype := b } := by simp [latchType, h]
  rw [bodyByte, e, captureBody, if_neg hb]

theorem exec_typeOther_next (b : Byte) (s t : State) :
    exec (.typeOther b) s = .next t ↔
      s.pstate = .readPayload ∧ s.cursor = 0 ∧ b ≠ acceptType ∧ t = parseByte b s := by
  have e : exec (.typeOther b) s = execTypeOther b s := rfl
  rw [e, execTypeOther]
  split
  · next h =>
    rw [typeOther_eq_body b s h.2.1 h.2.2]
    have hp : parseByte b s = bodyByte b s := by simp [parseByte, h.1]
    rw [hp]
    constructor
    · intro hn; cases hn; exact ⟨h.1, h.2.1, h.2.2, rfl⟩
    · rintro ⟨_, _, _, rfl⟩; rfl
  · next h =>
    simp only [reduceCtorEq, false_iff]
    rintro ⟨h1, h2, h3, _⟩
    exact h ⟨h1, h2, h3⟩

/-- R62: a run of one operation after another. -/
theorem execAll_cons (i : Instr) (is : List Instr) (s t : State) (h : exec i s = .next t) :
    execAll (i :: is) s = execAll is t := by simp [execAll, h]

/-- R62: a run of operations that reaches the end went through a state between any two of them. -/
theorem execAll_append_next (a b : List Instr) (s u : State) :
    execAll (a ++ b) s = .next u ↔ ∃ t, execAll a s = .next t ∧ execAll b t = .next u := by
  induction a generalizing s with
  | nil => simp [execAll]
  | cons i is ih =>
    simp only [List.cons_append, execAll]
    cases exec i s with
    | next t => exact ih t
    | fault f => simp
    | refused r => simp

end Sys2Proof.Machine
end

