-- ==== Sys2Proof/Laws/Intake.lean ====
section
/-! SUPPORT. The bytes the intake buffer holds under RXB and DSNAP (40_intake.md R100, R101; 41_scheduler.md R113). -/

namespace Sys2Proof.Machine

@[simp] theorem intakeHeld_length (s : State) : (intakeHeld s).length = s.level := by simp [intakeHeld]

theorem intakeHeld_congr (s t : State) (hl : t.level = s.level)
    (hm : ∀ j, j < s.level → Memory.read t.ib j = Memory.read s.ib j) : intakeHeld t = intakeHeld s := by
  unfold intakeHeld
  rw [hl]
  exact List.map_congr_left fun j hj => hm j (List.mem_range.1 hj)

/-- R100: a byte stored at LEVEL is the last byte held. -/
theorem intakeHeld_write (s t : State) (n : Nat) (b : Byte) (hw : Memory.wf s.ib = true)
    (hi : t.ib = Memory.write s.ib n b) (hl : t.level = n + 1) :
    intakeHeld t = (List.range n).map (Memory.read s.ib) ++ [b] := by
  unfold intakeHeld
  rw [hl, List.range_succ, List.map_append, hi]
  congr 1
  · exact List.map_congr_left fun j hj => read_write_ne _ _ _ _ (by have := List.mem_range.1 hj; omega)
  · simp [read_write_same _ _ _ none hw]

@[simp] theorem intakeHeld_empty (s : State) (h : s.level = 0) : intakeHeld s = [] := by simp [intakeHeld, h]

/-- R100, R101: RXB in a state with valid bounds and the canonical form always answers a next state. -/
theorem exec_rxb_total (b : Byte) (s : State) (hc : 1 ≤ s.cfg.intakeCap) (hl : s.level ≤ s.cfg.intakeCap) :
    ∃ t, exec (.rxb b) s = .next t := by
  by_cases h : s.level = s.cfg.intakeCap
  · exact ⟨_, (exec_rxb_next b s _).2 (.inl ⟨h, hc, rfl⟩)⟩
  · exact ⟨_, (exec_rxb_next b s _).2 (.inr ⟨by omega, rfl⟩)⟩

/-- R84: `RXS` byte by byte. -/
theorem rxsOps_append (a b : List Byte) : rxsOps (a ++ b) = rxsOps a ++ rxsOps b := by simp [rxsOps]

/-- R100: bytes that fit are stored in order after those held. -/
theorem rxs_fits (bs : List Byte) (s : State) (hw : Memory.wf s.ib = true)
    (hl : s.level + bs.length ≤ s.cfg.intakeCap) :
    ∃ m, execAll (rxsOps bs) s = .next { s with ib := m, level := s.level + bs.length } ∧ Memory.wf m = true ∧
      intakeHeld { s with ib := m, level := s.level + bs.length } = intakeHeld s ++ bs := by
  induction bs generalizing s with
  | nil => exact ⟨s.ib, rfl, hw, (List.append_nil _).symm⟩
  | cons b bs ih =>
    have hl' : s.level + (bs.length + 1) ≤ s.cfg.intakeCap := by simpa using hl
    have h1 := (exec_rxb_next b s _).2 (.inr ⟨by omega, rfl⟩)
    obtain ⟨m, e, hm, hh⟩ := ih { s with ib := Memory.write s.ib s.level b, level := s.level + 1 }
      (wf_write _ _ _ hw) (by show s.level + 1 + bs.length ≤ s.cfg.intakeCap; omega)
    have ha : s.level + 1 + bs.length = s.level + (b :: bs).length := by simp; omega
    simp only [ha] at e hh
    refine ⟨m, (execAll_cons _ _ _ _ h1).trans e, hm, hh.trans ?_⟩
    rw [intakeHeld_write s _ s.level b hw rfl rfl, List.append_assoc]
    rfl

end Sys2Proof.Machine
end

