-- ==== Sys2Proof/Laws/Machine.lean ====
section
/-! SUPPORT. What one operation can do, said once for all instructions: the inversion lemma of `exec`. -/

namespace Sys2Proof.Machine

/-- Every way `exec` answers a next state. The last case covers the seven classes of the parser's decode table. -/
theorem exec_cases (i : Instr) (s t : State) (h : exec i s = .next t) :
    (∃ b, i = .rxb b ∧ s.level = s.cfg.intakeCap ∧ 0 < s.cfg.intakeCap ∧
      t = { recordOverflow s with ib := Memory.write s.ib 0 b, level := 1 }) ∨
    (∃ b, i = .rxb b ∧ s.level < s.cfg.intakeCap ∧
      t = { s with ib := Memory.write s.ib s.level b, level := s.level + 1 }) ∨
    (i = .tinc ∧ t = timerTick s) ∨
    (i = .tack ∧ s.pending = true ∧ s.tph = .idle ∧ t = acknowledgeTick s) ∨
    (i = .dsnap ∧ s.tph = .due ∧ s.level ≤ s.cfg.intakeCap ∧
      t = { s with wq := intakeHeld s, level := 0, tph := .parsing }) ∨
    (∃ b rest, i = .pstep ∧ s.tph = .parsing ∧ s.wq = b :: rest ∧ t = parseByte b { s with wq := rest }) ∨
    (i = .dend ∧ s.tph = .parsing ∧ s.wq = [] ∧ t = endTick s) ∨
    (∃ off, i = .brd off ∧ off.toNat % 4 = 0 ∧ t = returnToHost (regRead s off) s) ∨
    (∃ off data, i = .bwr off data ∧ off.toNat % 4 = 0 ∧ t = regWrite (writeValue data) off s) ∨
    (i = .rst ∧ t = resetCore s) ∨
    (∃ b, i.isEvent = false ∧ i.agent = .tickSequencer ∧ i ≠ .pstep ∧ t = parseByte b s) := by
  cases i with
  | rxb b =>
    rcases (exec_rxb_next b s t).1 h with ⟨h1, h2, h3⟩ | ⟨h1, h2⟩
    · exact .inl ⟨b, rfl, h1, h2, h3⟩
    · exact .inr (.inl ⟨b, rfl, h1, h2⟩)
  | tinc =>
    rw [exec_tinc, next_eq_next] at h
    exact .inr (.inr (.inl ⟨rfl, h⟩))
  | tack => exact .inr (.inr (.inr (.inl ⟨rfl, (exec_tack_next s t).1 h⟩)))
  | dsnap => exact .inr (.inr (.inr (.inr (.inl ⟨rfl, (exec_dsnap_next s t).1 h⟩))))
  | pstep =>
    obtain ⟨h1, b, rest, h2, h3⟩ := (exec_pstep_next s t).1 h
    exact .inr (.inr (.inr (.inr (.inr (.inl ⟨b, rest, rfl, h1, h2, h3⟩)))))
  | dend => exact .inr (.inr (.inr (.inr (.inr (.inr (.inl ⟨rfl, (exec_dend_next s t).1 h⟩))))))
  | brd off =>
    exact .inr (.inr (.inr (.inr (.inr (.inr (.inr (.inl ⟨off, rfl, (exec_brd_next off s t).1 h⟩)))))))
  | bwr off data =>
    exact .inr (.inr (.inr (.inr (.inr (.inr (.inr (.inr (.inl
      ⟨off, data, rfl, (exec_bwr_next off data s t).1 h⟩))))))))
  | rst =>
    rw [exec_rst, next_eq_next] at h
    exact .inr (.inr (.inr (.inr (.inr (.inr (.inr (.inr (.inr (.inl ⟨rfl, h⟩)))))))))
  | syncHit =>
    have h := (exec_syncHit_next s t).1 h
    exact .inr (.inr (.inr (.inr (.inr (.inr (.inr (.inr (.inr (.inr ⟨_, rfl, rfl, nofun, h.2⟩)))))))))
  | syncMiss b =>
    have h := (exec_syncMiss_next b s t).1 h
    exact .inr (.inr (.inr (.inr (.inr (.inr (.inr (.inr (.inr (.inr ⟨_, rfl, rfl, nofun, h.2.2⟩)))))))))
  | lenZero =>
    have h := (exec_lenZero_next s t).1 h
    exact .inr (.inr (.inr (.inr (.inr (.inr (.inr (.inr (.inr (.inr ⟨_, rfl, rfl, nofun, h.2⟩)))))))))
  | len b =>
    have h := (exec_len_next b s t).1 h
    exact .inr (.inr (.inr (.inr (.inr (.inr (.inr (.inr (.inr (.inr ⟨_, rfl, rfl, nofun, h.2.2⟩)))))))))
  | body b =>
    have h := (exec_body_next b s t).1 h
    exact .inr (.inr (.inr (.inr (.inr (.inr (.inr (.inr (.inr (.inr ⟨_, rfl, rfl, nofun, h.2⟩)))))))))
  | typeAccept =>
    have h := (exec_typeAccept_next s t).1 h
    exact .inr (.inr (.inr (.inr (.inr (.inr (.inr (.inr (.inr (.inr ⟨_, rfl, rfl, nofun, h.2.2⟩)))))))))
  | typeOther b =>
    have h := (exec_typeOther_next b s t).1 h
    exact .inr (.inr (.inr (.inr (.inr (.inr (.inr (.inr (.inr (.inr ⟨_, rfl, rfl, nofun, h.2.2.2⟩)))))))))

/-- R183: a bus write leaves everything but the flags. -/
theorem regWrite_frame (v : Word) (off : Byte) (s : State) :
    regWrite v off s = { s with
      new := (regWrite v off s).new, crcErr := (regWrite v off s).crcErr, ovf := (regWrite v off s).ovf
      lenErr := (regWrite v off s).lenErr } := by
  rcases regWrite_cases v off s with ⟨_, e⟩ | ⟨_, e⟩ <;> rw [e] <;> rfl

/-- R110: a timer tick leaves everything but COUNT, PENDING and ARMED. -/
theorem timerTick_frame (s : State) :
    timerTick s = { s with
      count := s.count + 1, pending := (timerTick s).pending, armed := (timerTick s).armed } := by
  rcases timerTick_cases s with ⟨_, _, e⟩ | ⟨_, e⟩ <;> rw [e]

end Sys2Proof.Machine
end

