-- ==== Sys2Proof/Laws/PerInstr.lean ====
section
/-! SUPPORT. Statements made per instruction. Family `RowMatch`: the encoding of a well-formed instruction selects the
row of the opcode table that bears its mnemonic (30_encoding.md R78, R82, R72). -/

namespace Sys2Proof.Laws

/-- The word selects a row of its table under the mnemonic `m`. -/
def selectsRow (m : String) : Code → Prop
  | .event w => ∃ r ∈ eventRows, r.mnemonic = m ∧ w &&& r.mask = r.value
  | .pin p => ∃ r ∈ pinRows, r.1 = m ∧ p &&& r.2.2 = r.2.1
  | .typeByte t => ∃ r ∈ typeRows, r.1 = m ∧ t &&& r.2.2 = r.2.1

/-- The encoding of the instruction, when it is well formed, selects the row of its mnemonic. -/
def RowMatch.Statement (i : Instr) : Prop := i.wellFormed = true → selectsRow i.mnemonic (encode i)

theorem selects_event (r : EventRow) (hr : r ∈ eventRows) (w : Word) (h : w &&& r.mask = r.value) :
    selectsRow r.mnemonic (.event w) := ⟨r, hr, rfl, h⟩

/-- R82: a parser input word of the state code `c` selects the row whose mask keeps only the state. -/
theorem pinWord_and_state (c : BitVec 2) (b : Byte) : pinWord c b &&& 0x300 = pinWord c 0 := by
  revert c b; decide +kernel

theorem RowMatch.rxb (b : Byte) : RowMatch.Statement (.rxb b) :=
  fun _ => selects_event ⟨"RXB", 0x10000000, 0xFFFFFF00⟩ (by decide) _ ((row_RXB _).2 (by simp))

theorem RowMatch.tinc : RowMatch.Statement .tinc :=
  fun _ => selects_event ⟨"TINC", 0x20000000, 0xFFFFFFFF⟩ (by decide) _ (by decide)

theorem RowMatch.tack : RowMatch.Statement .tack :=
  fun _ => selects_event ⟨"TACK", 0x30000000, 0xFFFFFFFF⟩ (by decide) _ (by decide)

theorem RowMatch.dsnap : RowMatch.Statement .dsnap :=
  fun _ => selects_event ⟨"DSNAP", 0x40000000, 0xFFFFFFFF⟩ (by decide) _ (by decide)

theorem RowMatch.pstep : RowMatch.Statement .pstep :=
  fun _ => selects_event ⟨"PSTEP", 0x50000000, 0xFFFFFFFF⟩ (by decide) _ (by decide)

theorem RowMatch.dend : RowMatch.Statement .dend :=
  fun _ => selects_event ⟨"DEND", 0x60000000, 0xFFFFFFFF⟩ (by decide) _ (by decide)

theorem RowMatch.brd (off : Byte) : RowMatch.Statement (.brd off) :=
  fun h => selects_event ⟨"BRD", 0x70000000, 0xFFFFFF03⟩ (by decide) _ ((row_BRD _).2 (by
    have h : off.toNat % 4 = 0 := by simpa [Instr.wellFormed] using h
    simp [lowBits_eventWord, lowBits_eq_zero, h]))

theorem RowMatch.bwr (off : Byte) (data : BitVec 16) : RowMatch.Statement (.bwr off data) :=
  fun h => selects_event ⟨"BWR", 0x80000000, 0xFF000003⟩ (by decide) _ ((row_BWR _).2 (by
    have h : off.toNat % 4 = 0 := by simpa [Instr.wellFormed] using h
    simp [lowBits_eventWord, lowBits_eq_zero, h]))

theorem RowMatch.rst : RowMatch.Statement .rst :=
  fun _ => selects_event ⟨"RST", 0xF0000000, 0xFFFFFFFF⟩ (by decide) _ (by decide)

theorem RowMatch.syncHit : RowMatch.Statement .syncHit :=
  fun _ => ⟨("SYNC_HIT", 0x0C8, 0x3FF), by decide, rfl, by decide⟩

theorem RowMatch.syncMiss (b : Byte) : RowMatch.Statement (.syncMiss b) :=
  fun _ => ⟨("SYNC_MISS", 0x000, 0x300), by decide, rfl, by rw [pinWord_and_state]; decide⟩

theorem RowMatch.lenZero : RowMatch.Statement .lenZero :=
  fun _ => ⟨("LEN_ZERO", 0x100, 0x3FF), by decide, rfl, by decide⟩

theorem RowMatch.len (b : Byte) : RowMatch.Statement (.len b) :=
  fun _ => ⟨("LEN", 0x100, 0x300), by decide, rfl, by rw [pinWord_and_state]; decide⟩

theorem RowMatch.body (b : Byte) : RowMatch.Statement (.body b) :=
  fun _ => ⟨("BODY", 0x200, 0x300), by decide, rfl, by rw [pinWord_and_state]; decide⟩

theorem RowMatch.typeAccept : RowMatch.Statement .typeAccept :=
  fun _ => ⟨("TYPE_ACCEPT", 0x16, 0xFF), by decide, rfl, by decide⟩

theorem RowMatch.typeOther (t : Byte) : RowMatch.Statement (.typeOther t) :=
  fun _ => ⟨("TYPE_OTHER", 0x00, 0x00), by decide, rfl, BitVec.and_zero⟩

end Sys2Proof.Laws
end

