-- ==== Sys2Proof/Laws/Run.lean ====
section
/-! SUPPORT. Laws of one step and of runs: how a supplied word is taken, that no operation touches the supply, that
PSTEPs parse the bytes of WQ in order, and the counts of TINC runs. -/

namespace Sys2Proof.Machine

/-- R10, R76: a step takes the next word of the supply, decodes it and runs it. -/
theorem step_cons (s : State) (w : Word) (rest : List Word) (h : s.events = w :: rest) :
    step s =
      match decodeEvent w with
      | .error e => .refused (refusalOf e)
      | .ok i => exec i { s with events := rest } := by
  have e : takeEvent s = some (w, { s with events := rest }) := by unfold takeEvent; rw [h]
  unfold step
  rw [e]
  all_goals rfl

/-- R10: no operation takes from or adds to the agents' supply. -/
theorem exec_events (i : Instr) (s t : State) (h : exec i s = .next t) : t.events = s.events := by
  rcases exec_cases i s t h with ⟨_, _, _, _, rfl⟩ | ⟨_, _, _, rfl⟩ | ⟨_, rfl⟩ | ⟨_, _, _, rfl⟩ | ⟨_, _, _, rfl⟩ |
    ⟨_, _, _, _, _, rfl⟩ | ⟨_, _, _, rfl⟩ | ⟨_, _, _, rfl⟩ | ⟨_, _, _, _, rfl⟩ | ⟨_, rfl⟩ | ⟨_, _, _, _, rfl⟩
  all_goals first | rfl | simp | (rw [timerTick_frame]) | (rw [regWrite_frame])

/-- R62: a run that reaches the end took its first operation. -/
theorem execAll_cons_next (i : Instr) (is : List Instr) (s t : State) (h : execAll (i :: is) s = .next t) :
    ∃ u, exec i s = .next u ∧ execAll is u = .next t := by
  simp only [execAll] at h
  cases he : exec i s with
  | next u => rw [he] at h; exact ⟨u, rfl, h⟩
  | fault _ => rw [he] at h; cases h
  | refused _ => rw [he] at h; cases h

/-- R62: the bytes parsed by a run whose first operation steps. -/
theorem parsed_cons (i : Instr) (is : List Instr) (s t : State) (h : exec i s = .next t) :
    parsed (i :: is) s = (if i = .pstep then s.wq.head?.toList else []) ++ parsed is t := by
  simp only [parsed, h]

/-- R62: the bytes not discarded by a run whose first operation steps. -/
theorem survivors_cons (i : Instr) (is : List Instr) (s t : State) (before : List Byte) (h : exec i s = .next t) :
    survivors (i :: is) s before = survivors is t (kept i s before) := by
  simp only [survivors, h]

/-- R242: the updates of a run whose first operation steps. -/
theorem updates_cons (i : Instr) (is : List Instr) (s t : State) (h : exec i s = .next t) :
    updates (i :: is) s = (if t.ch = s.ch ∧ t.frameSeq = s.frameSeq then 0 else 1) + updates is t := by
  simp only [updates, h]

/-- R101: dropping as many bytes as stand at the end of a sequence leaves what stands before them. -/
theorem take_before (p q : List Byte) (n : Nat) (h : q.length = n) : (p ++ q).take ((p ++ q).length - n) = p := by
  subst h
  simp

/-- R114: as many PSTEPs as WQ has bytes parse them all, in order. -/
theorem psteps_run (bs : List Byte) (s : State) (h : s.tph = .parsing) (hw : s.wq = bs) :
    execAll (List.replicate bs.length .pstep) s = .next (parseBytes bs { s with wq := [] }) := by
  induction bs generalizing s with
  | nil => simp [execAll]; cases s; simp_all
  | cons b bs ih =>
    rw [List.length_cons, List.replicate_succ, execAll_cons _ _ _ _ (exec_pstep_cons s b bs h hw)]
    rw [ih _ (by simp [h]) (by simp)]
    congr 1
    rw [parseBytes_cons]
    congr 1
    rw [parseByte_with_wq b s bs, parseByte_with_wq b s []]

/-- R84: `ADV` of a sum. -/
theorem advOps_add (a b : Nat) : advOps (a + b) = advOps a ++ advOps b := by
  rw [advOps, advOps, advOps, List.replicate_append_replicate]

/-- R12: one count and then `n` more. -/
theorem count_succ (x : Word) (n : Nat) : x + 1 + BitVec.ofNat 32 n = x + BitVec.ofNat 32 (n + 1) := by
  rw [BitVec.add_assoc, BitVec.add_comm 1, BitVec.ofNat_add]
  rfl

end Sys2Proof.Machine
end

