-- ==== Sys2Proof/Laws/Unpacker.lean ====
section
/-! SUPPORT. The laws of the channel unpacker's loop (44_channel_unpacker.md R170-R172) and of the numbers a sequence of
fields spells. -/

namespace Sys2Proof.Machine

theorem vector_getD {n : Nat} {α : Type} (v : Vector α n) (i : Nat) (a : α) :
    v.getD i a = if h : i < n then v[i] else a := by
  by_cases h : i < n <;> simp [Vector.getD, Array.getD, h]

/-- R170: one pass of the loop sets one bit of one channel and leaves every other bit alone. -/
theorem unpackStep_bit (d : Vector Byte 22) (acc : Vector Chan 16) (p k j : Nat) (hk : k < 16) (hj : j < 11) :
    ((unpackStep d acc p).getD k 0).getLsbD j =
      ((acc.getD k 0).getLsbD j || (decide (p = 11 * k + j) && streamBit d p)) := by
  have e : unpackStep d acc p =
    acc.setIfInBounds (p / 11) (acc.getD (p / 11) 0 ||| (if streamBit d p then 1#11 else 0#11) <<< (p % 11)) := rfl
  rw [e]
  rw [vector_getD, dif_pos hk, vector_getD _ k, dif_pos hk, Vector.getElem_setIfInBounds]
  by_cases h : p / 11 = k
  · rw [if_pos h, vector_getD, dif_pos (by omega)]
    rw [BitVec.getLsbD_or, BitVec.getLsbD_shiftLeft]
    subst h
    congr 1
    have hp : p = 11 * (p / 11) + j ↔ p % 11 = j := by omega
    have hd : decide (p = 11 * (p / 11) + j) = decide (p % 11 = j) := decide_eq_decide.2 hp
    rw [hd]
    by_cases h1 : p % 11 = j
    · cases streamBit d p <;> simp [h1, hj]
    · have : j < p % 11 ∨ 0 < j - p % 11 := by omega
      rcases this with h2 | h2
      · simp [h1, h2]
      · cases streamBit d p <;> simp [h1] ; omega
  · rw [if_neg h]
    have : ¬ p = 11 * k + j := by omega
    simp [this]

/-- R171, R172: bit `p` of `sum of f j << (w j)`, for fields of `w` bits, is bit `p mod w` of field `p div w`. -/
theorem testBit_sum_shift (w : Nat) (hw : 0 < w) (f : Nat → Nat) (hf : ∀ i, f i < 2^w) (n p : Nat) :
    (((List.range n).map fun j => f j <<< (w * j)).sum).testBit p = (decide (p < w * n) && (f (p / w)).testBit (p % w)) ∧
    ((List.range n).map fun j => f j <<< (w * j)).sum < 2^(w*n) := by
  induction n generalizing p with
  | zero => simp
  | succ n ih =>
    have h2 := (ih 0).2
    rw [List.range_succ, List.map_append, List.sum_append]
    simp only [List.map_cons, List.map_nil, List.sum_cons, List.sum_nil, Nat.add_zero]
    have e : ((List.range n).map fun j => f j <<< (w * j)).sum + f n <<< (w * n) = 2^(w*n) * f n + ((List.range n).map fun j => f j <<< (w * j)).sum := by
      rw [Nat.shiftLeft_eq, Nat.add_comm, Nat.mul_comm]
    rw [e]
    refine ⟨?_, ?_⟩
    · rw [Nat.testBit_two_pow_mul_add _ h2]
      split
      · next h =>
        rw [(ih p).1]
        have : p < w * (n+1) := by rw [Nat.mul_succ]; omega
        simp [h, this]
      · next h =>
        by_cases h3 : p < w * (n+1)
        · have hd : p / w = n := by
            apply Nat.div_eq_of_lt_le
            · rw [Nat.mul_comm]; omega
            · rw [Nat.mul_comm]; exact h3
          have hm : p - w * n = p % w := by
            have := Nat.div_add_mod p w; rw [hd] at this; omega
          simp [h3, hd, hm]
        · have : (f n).testBit (p - w*n) = false := by
            apply Nat.testBit_lt_two_pow
            refine Nat.lt_of_lt_of_le (hf n) (Nat.pow_le_pow_right (by omega) ?_)
            rw [Nat.mul_succ] at h3; omega
          simp [h3, this]
    · rw [Nat.mul_succ, Nat.pow_add]
      have := hf n
      calc 2^(w*n) * f n + _ < 2^(w*n) * f n + 2^(w*n) := by omega
        _ = 2^(w*n) * (f n + 1) := by rw [Nat.mul_succ]
        _ ≤ _ := Nat.mul_le_mul_left _ this

end Sys2Proof.Machine
end

