-- ==== Sys2Proof/Tests/Slice0.lean ====
section
/-! SUPPORT. Tests and witnesses. Every expected value is taken from the tables and worked vectors of spec/ (the vector's
id stands in the comment), never from the model. `test_` theorems check one step or one word; `witness_` theorems show
that the hypotheses of an obligation are met together, at the boundary of each clause. -/

namespace Sys2Proof.Tests

open Sys2Proof.Machine

/-! ### Helpers -/

/-- The operation answers a next state that satisfies `ok`. -/
def gives (i : Instr) (s : State) (ok : State → Bool) : Bool :=
  match exec i s with
  | .next t => ok t
  | .fault _ => false
  | .refused _ => false

/-- The operation stops with this fault. -/
def stops (i : Instr) (s : State) (f : Fault) : Bool :=
  match exec i s with
  | .next _ => false
  | .fault g => g == f
  | .refused _ => false

/-- The next step is refused with this reason. -/
def refuses (s : State) (r : Refusal) : Bool :=
  match step s with
  | .next _ => false
  | .fault _ => false
  | .refused q => q == r

/-- The next step answers a next state that satisfies `ok`. -/
def steps (s : State) (ok : State → Bool) : Bool :=
  match step s with
  | .next t => ok t
  | .fault _ => false
  | .refused _ => false

/-- The word is decoded to this instruction. -/
def decodes (c : Code) (i : Instr) : Bool := (decode c).toOption == some i

/-- The word is rejected with this reason. -/
def rejects (c : Code) (e : DecodeError) : Bool :=
  match decode c with
  | .ok _ => false
  | .error d => d == e

/-- Three bytes held, the tick due (the state of V-TMR-9). -/
def dueState : State :=
  { State.reset with ib := [(0, 0xC8), (1, 0x18), (2, 0x16)], level := 3, tph := .due }

/-- A tick body with one byte left to parse (the state of V-TMR-11). -/
def parsingState : State := { State.reset with tph := .parsing, wq := [0xC8] }

/-- Inside a body at its first byte. -/
def typeState : State := { State.reset with pstate := .readPayload, flen := 24, cursor := 0 }

/-- A full intake buffer of a block with INTAKE_CAP = 64 (the state of V-INT-4). -/
def fullState : State := { State.reset with level := 64 }

/-- 95_test_vectors.md: the values of F_MIX. -/
def mixValues : Vector Chan 16 :=
  #v[172, 992, 1811, 992, 172, 1811, 992, 992, 0, 2047, 1, 1024, 1023, 5, 2046, 3]

/-- 95_test_vectors.md: the data bytes of F_MIX. -/
def mixData : Vector Byte 22 :=
  #v[0xAC, 0x00, 0xDF, 0xC4, 0xC1, 0xC7, 0x8A, 0x89, 0x83, 0x0F, 0x7C, 0x00, 0xF8, 0x7F, 0x00, 0x00, 0xF8, 0xBF, 0x02,
    0xF8, 0x7F, 0x00]

/-- The body of F_MIX but for its last byte is in PB, and the parser waits for that byte. -/
def lastByteState : State :=
  { State.reset with
    pstate := .readPayload, flen := 24, cursor := 23, ptype := 0x16
    pb := ⟨(0x16 :: mixData.toList ++ [0x00]).toArray, by decide⟩ }

theorem due_inv : dueState.Inv :=
  ⟨by decide, by decide, by decide, by decide, by decide, by decide, by decide, by decide, by decide⟩

theorem parsing_inv : parsingState.Inv :=
  ⟨by decide, by decide, by decide, by decide, by decide, by decide, by decide, by decide, by decide⟩

theorem emptyDue_inv : ({ State.reset with tph := .due } : State).Inv :=
  ⟨by decide, by decide, by decide, by decide, by decide, by decide, by decide, by decide, by decide⟩

theorem full_inv : fullState.Inv :=
  ⟨by decide, by decide, by decide, by decide, by decide, by decide, by decide, by decide, by decide⟩

/-! ### Well-formedness: an ill-formed term for each check (R77, R82, R72) -/

theorem test_wf_brd_misaligned : (Instr.brd 0x41).wellFormed = false := by decide
theorem test_wf_bwr_misaligned : (Instr.bwr 0x43 1).wellFormed = false := by decide
theorem test_wf_syncMiss_sync : (Instr.syncMiss 0xC8).wellFormed = false := by decide
theorem test_wf_len_zero : (Instr.len 0).wellFormed = false := by decide
theorem test_wf_typeOther_accepted : (Instr.typeOther 0x16).wellFormed = false := by decide

/-! ### Decoding: words written out from R77, R78, R82 and R72 -/

/-- 0001 0000 ... 1100 1000 (V-INT-1) -/
theorem test_decode_rxb : decodes (.event 0b00010000000000000000000011001000) (.rxb 0xC8) = true := by decide
theorem test_decode_tinc : decodes (.event 0x20000000) .tinc = true := by decide
theorem test_decode_tack : decodes (.event 0x30000000) .tack = true := by decide
theorem test_decode_dsnap : decodes (.event 0x40000000) .dsnap = true := by decide
theorem test_decode_pstep : decodes (.event 0x50000000) .pstep = true := by decide
theorem test_decode_dend : decodes (.event 0x60000000) .dend = true := by decide
/-- 0111 0000 ... 0110 0100 (V-BUS-1) -/
theorem test_decode_brd : decodes (.event 0b01110000000000000000000001100100) (.brd 0x64) = true := by decide
/-- 1000 0000 | 0000 0111 1111 1111 | 0000 0000 (V-BUS-10) -/
theorem test_decode_bwr : decodes (.event 0b10000000000001111111111100000000) (.bwr 0x00 0x7FF) = true := by decide
theorem test_decode_rst : decodes (.event 0xF0000000) .rst = true := by decide
/-- R82: 00 | 1100 1000 -/
theorem test_decode_syncHit : decodes (.pin 0b0011001000) .syncHit = true := by decide
theorem test_decode_syncMiss : decodes (.pin 0b0001010101) (.syncMiss 0x55) = true := by decide
theorem test_decode_lenZero : decodes (.pin 0b0100000000) .lenZero = true := by decide
/-- R134: in READ_LEN the byte 0xC8 is the length 200. -/
theorem test_decode_len : decodes (.pin 0b0111001000) (.len 0xC8) = true := by decide
/-- R134: in READ_PAYLOAD the byte 0xC8 is a body byte. -/
theorem test_decode_body : decodes (.pin 0b1011001000) (.body 0xC8) = true := by decide
theorem test_decode_typeAccept : decodes (.typeByte 0b00010110) .typeAccept = true := by decide
theorem test_decode_typeOther : decodes (.typeByte 0b00101000) (.typeOther 0x28) = true := by decide
/-- R82: PIN[9:8] = 11 matches no row. -/
theorem test_decode_pin3 : rejects (.pin 0b1100000000) .noInputClass = true := by decide

/-- V-BUS-14, V-BUS-15, V-BUS-16 -/
theorem test_reserved_words :
    ([0x00000000, 0x90000000, 0xE0000000].all fun w => rejects (.event w) .reservedOpcode) = true ∧
    ([0x10000100, 0x20000001, 0x81000040, 0xF0000001].all fun w => rejects (.event w) .nonzeroField) = true ∧
    ([0x70000041, 0x70000042, 0x80000143].all fun w => rejects (.event w) .misaligned) = true := by decide

/-- R79, R56: the refusals of a step. -/
theorem test_step_refuses :
    refuses { State.reset with events := [0x90000000] } .reservedEncoding = true ∧
    refuses { State.reset with events := [0x70000042] } .misaligned = true := by decide

/-- The rows of spec/opcode_table.json, at their match words. LEN's match word 0x100 is LEN_ZERO by first match (R82). -/
theorem test_decodeTableWord :
    decodeTableWord 32 0x100000C8 = some (.rxb 0xC8) ∧ decodeTableWord 32 0xF0000000 = some .rst ∧
    decodeTableWord 16 0x0C8 = some .syncHit ∧ decodeTableWord 16 0x100 = some .lenZero ∧
    decodeTableWord 16 0x118 = some (.len 0x18) ∧ decodeTableWord 8 0x16 = some .typeAccept := by decide

/-! ### Operations -/

/-- V-INT-2 -/
theorem test_rxb_stores :
    gives (.rxb 0xC8) { State.reset with level := 5 } (fun t => t.level == 6 && Memory.read t.ib 5 == 0xC8) = true := by
  decide
/-- V-INT-5: the overflow keeps the arriving byte and the counter wraps. -/
theorem test_rxb_overflow :
    gives (.rxb 0x01) { fullState with ovfCnt := 0xFFFFFFFF }
      (fun t => t.level == 1 && Memory.read t.ib 0 == 0x01 && t.ovf && t.ovfCnt == 0) = true := by decide
/-- V-TMR-3: COUNT wraps and matches an alarm of 0. -/
theorem test_tinc_wraps :
    gives .tinc { State.reset with count := 0xFFFFFFFF, alarm := 0 }
      (fun t => t.count == 0 && t.pending && !t.armed) = true := by decide
/-- V-TMR-4: no match while disarmed. -/
theorem test_tinc_disarmed :
    gives .tinc { State.reset with count := 9999, armed := false, pending := true }
      (fun t => t.count == 10000 && t.pending && !t.armed) = true := by decide
/-- V-TMR-6: the new alarm wraps. -/
theorem test_tack_wraps :
    gives .tack { State.reset with pending := true, armed := false, count := 0xFFFFE000 }
      (fun t => t.alarm == 0x00000710 && t.armed && !t.pending && t.tph == .due) = true := by decide
/-- V-TMR-7, V-TMR-8 -/
theorem test_tack_not_enabled :
    stops .tack { State.reset with pending := true, tph := .parsing } .tackNotEnabled = true ∧
    stops .tack State.reset .tackNotEnabled = true := by decide
/-- V-TMR-9 -/
theorem test_dsnap :
    gives .dsnap dueState
      (fun t => t.wq == [0xC8, 0x18, 0x16] && t.level == 0 && t.tph == .parsing && regRead t 0x60 == 0x9) = true := by
  decide
/-- V-TMR-15 -/
theorem test_dsnap_not_enabled : stops .dsnap State.reset .dsnapNotEnabled = true := by decide
/-- V-TMR-11 -/
theorem test_pstep : gives .pstep parsingState (fun t => t.wq == [] && t.pstate == .readLen) = true := by decide
/-- V-TMR-12 -/
theorem test_pstep_not_enabled : stops .pstep { parsingState with wq := [] } .pstepNotEnabled = true := by decide
/-- V-TMR-13, V-TMR-14 -/
theorem test_dend :
    gives .dend { parsingState with wq := [] } (fun t => t.tph == .idle) = true ∧
    stops .dend { parsingState with wq := [0x55] } .dendNotEnabled = true := by decide
/-- V-BUS-1, V-BUS-3: CONFIG0, TIMER_STAT after reset. -/
theorem test_brd_reset :
    gives (.brd 0x64) State.reset (fun t => t.busReads == [0x18D516C8]) = true ∧
    gives (.brd 0x60) State.reset (fun t => t.busReads == [0x00000001]) = true := by decide
/-- V-BUS-13 and R54: PARSER in the middle of a frame; PAYLOAD0 is little-endian (V-BUS-6). -/
theorem test_brd_parser_payload :
    gives (.brd 0x50) { State.reset with pstate := .readPayload, flen := 24, ptype := 0x16, cursor := 8 }
      (fun t => t.busReads == [0x08161802]) = true ∧
    gives (.brd 0x80) lastByteState (fun t => t.busReads == [0xDF00AC16]) = true := by decide
/-- V-BUS-7 -/
theorem test_bwr_clears_one :
    gives (.bwr 0x40 1) { State.reset with new := true, crcErr := true }
      (fun t => regRead t 0x40 == 0x2) = true := by decide
/-- V-BUS-9, V-BUS-11: a written 0 clears nothing; another offset changes nothing. -/
theorem test_bwr_clears_nothing :
    gives (.bwr 0x40 0) { State.reset with new := true, ovf := true } (fun t => regRead t 0x40 == 0x5) = true ∧
    gives (.bwr 0x44 0) { State.reset with frameSeq := 7 } (fun t => t == { State.reset with frameSeq := 7 }) = true := by
  decide
/-- V-RST-2 -/
theorem test_rst :
    gives .rst { parsingState with pstate := .readPayload, level := 4, pending := true, armed := false }
      (fun t => t == State.reset) = true := by decide
/-- V-PAR-2 -/
theorem test_syncHit : gives .syncHit State.reset (fun t => regRead t 0x50 == 0x00000001) = true := by decide
/-- V-PAR-1 -/
theorem test_syncMiss : gives (.syncMiss 0x55) State.reset (fun t => t == State.reset) = true := by decide
/-- V-PAR-4 -/
theorem test_lenZero :
    gives .lenZero { State.reset with pstate := .readLen, flen := 9, cursor := 9 }
      (fun t => t == State.reset) = true := by decide
/-- V-PAR-13: 0xC8 as a length is 200. -/
theorem test_len :
    gives (.len 0xC8) { State.reset with pstate := .readLen, cursor := 9 }
      (fun t => t.flen == 200 && t.cursor == 0 && t.pstate == .readPayload) = true := by decide
/-- P1: the last byte of F_MIX, 0x0F, validates it. -/
theorem test_body_valid :
    gives (.body 0x0F) lastByteState
      (fun t => t.ch == mixValues && t.frameSeq == 1 && t.new && !t.crcErr && t.pstate == .awaitSync) = true := by
  decide +kernel
/-- V-PAR-9: 0x0E does not. -/
theorem test_body_corrupt :
    gives (.body 0x0E) lastByteState
      (fun t => t.ch == State.reset.ch && t.frameSeq == 0 && !t.new && t.crcErr && t.crcErrCnt == 1) = true := by
  decide +kernel
/-- R132's example, and V-PAR-5: an accepted type in a body of one byte. -/
theorem test_typeAccept :
    gives .typeAccept typeState (fun t => t.ptype == 0x16 && t.pb[0] == 0x16 && t.cursor == 1) = true ∧
    gives .typeAccept { typeState with flen := 1 }
      (fun t => regRead t 0x50 == 0x01160100 && regRead t 0x40 == 0x8) = true := by decide
/-- V-PAR-6: another type in a body of one byte. -/
theorem test_typeOther :
    gives (.typeOther 0x28) { typeState with flen := 1 }
      (fun t => regRead t 0x50 == 0x01280100 && t.pb == State.reset.pb && regRead t 0x40 == 0) = true := by decide

/-! ### CRC and unpacker -/

/-- V-CRC-1, V-CRC-3 -/
theorem test_crc_steps :
    [0x00, 0x01, 0x40, 0x80, 0xFF].map (fun r => crcShift r 0xD5) = [0x00, 0x02, 0x80, 0xD5, 0x2B] ∧
    crcByte 0x00 0x01 0xD5 = 0xD5 := by decide
/-- V-CRC-6, V-CRC-7 -/
theorem test_crc_values :
    crc8 [0x31, 0x32, 0x33, 0x34, 0x35, 0x36, 0x37, 0x38, 0x39] = 0xBC ∧ crc8 [0x12, 0x34] = 0xAE ∧
    crc8 [0x0F, 0xF0] = 0xED ∧ crc8 [0x1D, 0xC4] = 0x43 := by decide +kernel
/-- V-CRC-11, V-CRC-12: the body of the all-zero frame. -/
theorem test_crc_zero_frame :
    crc8 (0x16 :: List.replicate 22 0 ++ [0x00]) = 0xAB ∧ crc8 (0x16 :: List.replicate 22 0 ++ [0xEF]) = 0x00 := by
  decide +kernel
/-- V-UNP-8 and the F_MIX row of V-EX-2 -/
theorem test_unpack_mix : unpack mixData = mixValues ∧ pack mixValues = mixData := by decide +kernel
/-- V-UNP-6, V-UNP-5: alternating bits; the last bit of the stream. -/
theorem test_unpack_bits :
    (unpack (Vector.replicate 22 0x55)).toList = (List.replicate 8 [1365, 682]).flatten ∧
    (unpack ((Vector.replicate 22 0).set 21 0x80)).toList = List.replicate 15 0 ++ [1024] := by decide +kernel

/-! ### Trace syntax and pseudo-operations (R83, R84) -/

theorem test_parse_bwr : parseLine "BWR 0x40, 0x1 ; ack".toList = .event (.op (.bwr 0x40 1)) := by decide +kernel
theorem test_parse_rxs : parseLine "RXS 0xC8, 24, 0x16".toList = .event (.rxs [0xC8, 24, 0x16]) := by decide +kernel
theorem test_parse_comment : parseLine "  ; nothing".toList = .blank := by decide +kernel
theorem test_parse_misaligned : parseLine "BRD 0x41".toList = .illFormed := by decide +kernel
/-- 95_test_vectors.md: F_MIX as bytes. -/
theorem test_chframe_mix :
    chframeBytes mixValues = [0xC8, 0x18, 0x16] ++ mixData.toList ++ [0x0F] := by decide +kernel

/-! ### How a word is placed for the next step -/

/-- R130: a parser input word runs as the class the next PSTEP meets. -/
theorem test_withFetchWord :
    steps (State.reset.withFetchWord 32 0x20000000) (fun t => t.count == 1) = true ∧
    steps (State.reset.withFetchWord 16 0x118) (fun t => t.flen == 24 && t.pstate == .readPayload) = true ∧
    steps (State.reset.withFetchWord 8 0x16) (fun t => t.ptype == 0x16 && t.cursor == 1) = true ∧
    refuses (State.reset.withFetchWord 32 0) .reservedEncoding = true := by decide
/-! ### Witnesses: the hypotheses of each obligation are met together, at the boundary of each clause -/

/-- A run that answers a next state. -/
def runs (is : List Instr) (s : State) (ok : State → Bool) : Bool :=
  match execAll is s with
  | .next t => ok t
  | .fault _ => false
  | .refused _ => false

/-- One well-formed instance of every constructor, at a boundary of its operand. -/
theorem witness_DecodeOfEncodeIsTheInstruction :
    ([.rxb 0xFF, .tinc, .tack, .dsnap, .pstep, .dend, .brd 0xFC, .bwr 0x00 0xFFFF, .rst, .syncHit, .syncMiss 0xC7,
      .lenZero, .len 1, .body 0x00, .typeAccept, .typeOther 0x17] : List Instr).all Instr.wellFormed = true := by decide

theorem witness_EncodeOfDecodeIsTheWord :
    decode (.event 0x70000064) = .ok (.brd 0x64) ∧ decode (.pin 0x2FF) = .ok (.body 0xFF) ∧
    decode (.typeByte 0x16) = .ok .typeAccept := ⟨rfl, rfl, rfl⟩

/-- Both sides of the statement have a word. -/
theorem witness_EventWordSelectsOneRow :
    decodeEvent 0x80FFFF40 = .ok (.bwr 0x40 0xFFFF) ∧ (∀ r ∈ eventRows, 0x90000000#32 &&& r.mask ≠ r.value) :=
  ⟨rfl, by decide⟩

/-- The word selects no row of R78. -/
def selectsNone (w : Word) : Bool := eventRows.all fun r => !r.selects w

theorem selectsNone_iff (w : Word) : selectsNone w = true ↔ ∀ r ∈ eventRows, w &&& r.mask ≠ r.value := by
  simp [selectsNone, EventRow.selects]

/-- R79: a word for each clause: OPC 0, 9 and 14; OPC 1, 2, 6 and 15 with a bit set; OPC 7 and 8, aligned and not. -/
theorem witness_ReservedWordIsRefused :
    ([0x00000000, 0x90000000, 0xE0000000, 0x10000100, 0x20000001, 0x68000000, 0xF0000001,
      0x70000100, 0x70000041, 0x81000040, 0x80000143] : List Word).all selectsNone = true := by decide

theorem witness_StepRunsTheDecodedOperation :
    ({ State.reset with events := [0x20000000] } : State).events = 0x20000000 :: [] ∧
    decodeEvent 0x20000000 = .ok .tinc ∧ State.reset.events = [] := ⟨rfl, rfl, rfl⟩

theorem witness_PlacedWordIsRunNext :
    ((Instr.bwr 0xFC 0xFFFF).wellFormed && (Instr.bwr 0xFC 0xFFFF).isEvent) = true := by decide

theorem witness_RunOfSuppliedWordsIsExecAll :
    ∀ i ∈ [Instr.rxb 0xC8, Instr.tinc], i.isEvent = true ∧ i.wellFormed = true := by decide

/-- Enabled and not enabled, in states that meet the invariants. -/
theorem witness_OperationStepsExactlyWhenEnabled :
    dueState.Inv ∧ enabled .dsnap dueState = true ∧ enabled .tack dueState = false ∧
    Instr.dsnap.wellFormed = true ∧ Instr.tack.wellFormed = true := ⟨due_inv, by decide⟩

/-- Each guard false, and each class outside its row. -/
theorem witness_NotEnabledOperationFaults :
    State.reset.pending = false ∧ dueState.tph ≠ .idle ∧ State.reset.tph ≠ .due ∧ State.reset.tph ≠ .parsing ∧
    ({ parsingState with wq := [] } : State).wq = [] ∧ parsingState.wq ≠ [] ∧
    enabled .syncHit typeState = false ∧ enabled (.syncMiss 0xC8) State.reset = false ∧
    enabled .lenZero State.reset = false ∧ enabled (.len 0) { State.reset with pstate := .readLen } = false ∧
    enabled (.body 0) State.reset = false ∧ enabled .typeAccept { typeState with cursor := 1 } = false ∧
    enabled (.typeOther 0x16) typeState = false := by decide

/-- LEVEL = INTAKE_CAP - 1 and LEVEL = INTAKE_CAP. -/
theorem witness_RxbStoresTheByte :
    State.reset.cfg.Valid ∧ Memory.wf ({ State.reset with level := 63 } : State).ib = true ∧
    ({ State.reset with level := 63 } : State).level < State.reset.cfg.intakeCap ∧
    fullState.level = fullState.cfg.intakeCap ∧ Memory.wf fullState.ib = true := by decide

theorem witness_IndexOutsideTheIntakeFaults :
    ({ dueState with level := 65 } : State).cfg.intakeCap < ({ dueState with level := 65 } : State).level ∧
    ({ dueState with level := 65 } : State).tph = .due := by decide

/-- V-INT-6: INTAKE_CAP = 1 and three bytes: two overflows. -/
theorem witness_BurstKeepsTheFreshestBytes :
    (State.resetWith ⟨1, 10000⟩).cfg.Valid ∧ Memory.wf (State.resetWith ⟨1, 10000⟩).ib = true ∧
    (State.resetWith ⟨1, 10000⟩).level = 0 ∧
    runs (rxsOps [0x0A, 0x0B, 0x0C]) (State.resetWith ⟨1, 10000⟩)
      (fun t => t.level == 1 && Memory.read t.ib 0 == 0x0C && t.ovfCnt == 2) = true := by decide

/-- A match, no match while armed (V-TMR-1), and no match while disarmed (V-TMR-4). -/
theorem witness_TincAdvancesAndMatches :
    (State.reset.armed = true ∧ ({ State.reset with count := 9999 } : State).count + 1 = State.reset.alarm) ∧
    State.reset.count + 1 ≠ State.reset.alarm ∧ ({ State.reset with armed := false } : State).armed = false := by decide

theorem witness_TackAcknowledgesAndRearms :
    ({ State.reset with pending := true } : State).pending = true ∧ State.reset.tph = .idle ∧
    State.reset.pending = false ∧ dueState.tph ≠ .idle := by decide

/-- One count before the alarm, with COUNT about to wrap. -/
theorem witness_WaitEndsAtTheAlarm :
    State.reset.armed = true ∧ State.reset.count ≠ State.reset.alarm ∧
    waitCount { State.reset with count := 0xFFFFFFFF, alarm := 0 } = 1 ∧ waitCount State.reset = 10000 := by decide

theorem witness_NoMatchWhileDisarmed : ({ State.reset with armed := false, pending := true } : State).armed = false := by
  decide

theorem witness_TicksComeOnePeriodApart :
    State.reset.cfg.Valid ∧ State.reset.armed = true ∧ State.reset.pending = false ∧ State.reset.tph = .idle ∧
    State.reset.level = 0 ∧ State.reset.wq = [] ∧
    State.reset.alarm = State.reset.count + State.reset.cfg.tickPeriod := by decide

/-- The shortest period and the last count of it. -/
theorem witness_FirstTickAfterOnePeriod :
    Config.Valid ⟨64, 1⟩ ∧ 1 ≤ (1 : Word).toNat ∧ Config.core.Valid ∧ 10000 ≤ Config.core.tickPeriod.toNat := by decide

theorem witness_DsnapTakesTheSnapshot :
    dueState.tph = .due ∧ dueState.level ≤ dueState.cfg.intakeCap ∧ State.reset.tph ≠ .due ∧ 2 < dueState.level := by
  decide

theorem witness_PstepGivesTheHeadToTheParser :
    parsingState.tph = .parsing ∧ parsingState.wq = 0xC8 :: [] ∧ dueState.tph ≠ .parsing ∧
    ({ parsingState with wq := [] } : State).wq = [] := by decide

theorem witness_DendEndsTheBody :
    ({ parsingState with wq := [] } : State).tph = .parsing ∧ ({ parsingState with wq := [] } : State).wq = [] ∧
    State.reset.tph ≠ .parsing ∧ parsingState.wq ≠ [] := by decide

/-- Each phase change happens. -/
theorem witness_TickPhasesInOrder :
    gives .tack { State.reset with pending := true } (fun t => t.tph == .due) = true ∧
    gives .dsnap dueState (fun t => t.tph == .parsing) = true ∧
    gives .dend { parsingState with wq := [] } (fun t => t.tph == .idle) = true ∧
    gives .tinc dueState (fun t => t.tph == .due) = true := by decide

theorem witness_EmptyDrainChangesOnlyThePhase :
    ({ State.reset with tph := .due } : State).Inv ∧ ({ State.reset with tph := .due } : State).tph = .due ∧
    ({ State.reset with tph := .due } : State).level = 0 := ⟨emptyDue_inv, rfl, rfl⟩

/-- The three bytes of V-TMR-9 are parsed: a sync byte, a length, a type. -/
theorem witness_DrainParsesTheHeldBytesInOrder :
    dueState.tph = .due ∧ dueState.level ≤ dueState.cfg.intakeCap ∧
    runs (drainOps dueState) dueState (fun t => t.flen == 0x18 && t.ptype == 0x16 && t.tph == .idle) = true := by decide

theorem witness_ParsingIsIndependentOfDrainSplit :
    ({ State.reset with tph := .due } : State).Inv ∧ ({ State.reset with tph := .due } : State).armed = true ∧
    ([0xC8, 0x18] ++ [0x16] : List Byte).length ≤ State.reset.cfg.intakeCap := ⟨emptyDue_inv, by decide⟩

/-- One byte for each row of R82. -/
theorem witness_PstepIsItsInputClass :
    parsingState.tph = .parsing ∧ parsingState.wq = 0xC8 :: [] ∧ (0x3FF#10).extractLsb' 8 2 = 3 := by decide

theorem witness_SyncIsRecognisedOnlyInAwaitSync :
    State.reset.pstate = .awaitSync ∧ (0xC7 : Byte) ≠ 0xC8 ∧ typeState.pstate ≠ .awaitSync := by decide

theorem witness_LengthByteStartsTheBody :
    ({ State.reset with pstate := .readLen } : State).pstate = .readLen ∧ (1 : Byte) ≠ 0 ∧ (255 : Byte) ≠ 0 := by decide

/-- Captured at index 0 and 23, discarded at 24, not captured for another type; the last byte of a body of 255. -/
theorem witness_BodyByteIsCapturedAndCounted :
    typeState.pstate = .readPayload ∧ typeState.cursor.toNat < typeState.flen.toNat ∧
    gives (.body 0x16) typeState (fun t => t.ptype == 0x16 && t.cursor == 1) = true ∧
    gives (.body 0xAA) { typeState with cursor := 23, flen := 30, ptype := 0x16 } (fun t => t.pb[23] == 0xAA) = true ∧
    gives (.body 0xAA) { typeState with cursor := 24, flen := 30, ptype := 0x16 }
      (fun t => t.pb == State.reset.pb && t.cursor == 25) = true ∧
    gives (.body 0xAA) { typeState with cursor := 1, ptype := 0x28 } (fun t => t.pb == State.reset.pb) = true ∧
    gives (.body 0xAA) { typeState with cursor := 254, flen := 255, ptype := 0x28 }
      (fun t => t.cursor == 255 && t.pstate == .awaitSync) = true := by decide

/-- The four outcomes. -/
theorem witness_FrameCompletionRecordsOneOutcome :
    lastByteState.pstate = .readPayload ∧ lastByteState.cursor + 1 = lastByteState.flen ∧
    gives (.body 0x0F) { lastByteState with ptype := 0x28 } (fun t => t.ptype != 0x16) = true ∧
    gives (.body 0x0F) { lastByteState with flen := 30, cursor := 29 } (fun t => t.ptype == 0x16 && t.flen != 24) = true ∧
    gives (.body 0x0F) lastByteState (fun t => t.ptype == 0x16 && crc8 t.pb.toList == 0) = true ∧
    gives (.body 0x0E) lastByteState (fun t => t.ptype == 0x16 && crc8 t.pb.toList != 0) = true := by decide +kernel

theorem witness_TypeByteSelectsCapture :
    typeState.pstate = .readPayload ∧ typeState.cursor = 0 ∧ ({ typeState with flen := 1 } : State).flen = 1 ∧
    typeState.flen ≠ 1 ∧ (0x15 : Byte) ≠ 0x16 := by decide

/-- The least INTAKE_CAP that holds a frame. -/
theorem witness_ValidFrameIsDecodedEndToEnd :
    Config.Valid ⟨26, 1⟩ ∧ Memory.wf ({ State.resetWith ⟨26, 1⟩ with tph := .due } : State).ib = true ∧
    ({ State.resetWith ⟨26, 1⟩ with tph := .due } : State).pstate = .awaitSync ∧
    (State.resetWith ⟨26, 1⟩).level = 0 ∧ 26 ≤ (State.resetWith ⟨26, 1⟩).cfg.intakeCap := by decide

/-- V-PAR-9 -/
theorem witness_CorruptedFrameLeavesChannels :
    State.reset.pstate = .awaitSync ∧ mixData.toList.length = 22 ∧ 0x0E ≠ crc8 (0x16 :: mixData.toList) := by
  decide +kernel

/-- The longest body, 255 bytes, and the shortest, the type byte alone (V-PAR-6). -/
theorem witness_OtherTypeFrameIsConsumedSilently :
    State.reset.pstate = .awaitSync ∧ (0x28 : Byte) ≠ 0x16 ∧ (List.replicate 254 (0 : Byte)).length ≤ 254 ∧
    ([] : List Byte).length ≤ 254 := by decide +kernel

/-- V-PAR-5 (length 1), and the lengths beside 24. -/
theorem witness_WrongLengthFrameIsNotValidated :
    State.reset.pstate = .awaitSync ∧ ([] : List Byte).length ≠ 23 ∧ (List.replicate 22 (0 : Byte)).length ≠ 23 ∧
    (List.replicate 24 (0 : Byte)).length ≠ 23 ∧ (List.replicate 24 (0 : Byte)).length ≤ 254 := by decide

theorem witness_PstepRecordsAtMostOneEvent :
    gives .pstep { lastByteState with tph := .parsing, wq := [0x0F] } (fun t => t.frameSeq == 1) = true ∧
    gives .pstep { lastByteState with tph := .parsing, wq := [0x0E] } (fun t => t.crcErrCnt == 1) = true ∧
    gives .pstep parsingState (fun t => t.frameSeq == 0) = true := by decide +kernel

theorem witness_CrcAlgebraicProperties :
    ([0x12, 0x34] : List Byte).length = ([0x0F, 0xF0] : List Byte).length ∧ 7 < 8 := by decide

theorem witness_UnpackerReadsTheLittleEndianBitstream : 15 < 16 ∧ 10 < 11 ∧ (11 * 15 + 10) / 8 < 22 := by decide

/-- R80: the first and the last offset of each clause. -/
theorem witness_RegReadGivesTheRegister :
    (∀ off ∈ ([0x00, 0x3C, 0x40, 0x44, 0x48, 0x4C, 0x50, 0x54, 0x58, 0x5C, 0x60, 0x64, 0x68, 0x6C, 0x70, 0x7C, 0x80, 0x94,
      0x98, 0xFC] : List Byte), off.toNat % 4 = 0) ∧
    (0x3C : Byte).toNat ≤ 0x3C ∧ (0x94 : Byte).toNat = 0x80 + 4 * 5 ∧ 0x70 ≤ (0x70 : Byte).toNat ∧
    (0x7C : Byte).toNat ≤ 0x7C ∧ 0x98 ≤ (0x98 : Byte).toNat := by decide

theorem witness_BwrClearsStatusBits :
    (0x40 : Byte).toNat % 4 = 0 ∧ (0x3C : Byte) ≠ 0x40 ∧ (0x3C : Byte).toNat % 4 = 0 := by decide

theorem witness_MisalignedBusAccessIsRefused :
    (0x41 : Byte).toNat % 4 ≠ 0 ∧ (0x42 : Byte).toNat % 4 ≠ 0 ∧ (0xFF : Byte).toNat % 4 ≠ 0 := by decide

theorem witness_BusAccessIsIdempotent : (0xFC : Byte).toNat % 4 = 0 := by decide

theorem witness_BusHostOnlyClearsFlags :
    (Instr.bwr 0x40 1).agent = .busHost ∧ (Instr.brd 0x40).agent = .busHost ∧
    gives (.bwr 0x40 1) { State.reset with new := true } (fun t => !t.new) = true := by decide

theorem witness_RegistersAtReset :
    ∀ off ∈ ([0x00, 0x5C, 0x60, 0x64, 0x68, 0x6C, 0xFC] : List Byte), off.toNat % 4 = 0 := by decide

theorem witness_ResetStateMeetsTheInvariants : Config.Valid ⟨1, 1⟩ ∧ Config.Valid ⟨2 ^ 32 - 1, 0xFFFFFFFF⟩ := by decide

theorem witness_EveryStepKeepsTheInvariants :
    dueState.Inv ∧ (∃ t, exec .dsnap dueState = .next t) ∧ (∃ t, exec .rst dueState = .next t) ∧
    ∃ t, step { dueState with events := [0x40000000] } = .next t := ⟨due_inv, ⟨_, rfl⟩, ⟨_, rfl⟩, ⟨_, rfl⟩⟩

theorem witness_ParametersAreConstant : gives .rst dueState (fun t => t.cfg == Config.core) = true := by decide

/-- A flag is cleared by BWR and by RST. -/
theorem witness_StatusFlagsAreSticky :
    gives (.bwr 0x40 0x8) { State.reset with lenErr := true } (fun t => !t.flag .lenErr) = true ∧
    gives .rst { State.reset with lenErr := true } (fun t => !t.flag .lenErr) = true := by decide

theorem witness_CountersAdvanceWithTheirFlags :
    gives (.rxb 0) fullState (fun t => t.ovfCnt == 1 && t.ovf) = true ∧ Instr.rxb 0 ≠ .rst := by decide

theorem witness_EachElementHasItsWriters :
    gives (.rxb 1) State.reset (fun t => t.ib != State.reset.ib && t.level != 0) = true ∧
    gives .pstep parsingState (fun t => t.wq != parsingState.wq && t.pstate != parsingState.pstate) = true ∧
    gives .tinc State.reset (fun t => t.count != State.reset.count) = true ∧
    gives .tack { State.reset with pending := true, count := 1 } (fun t => t.alarm != State.reset.alarm) = true := by decide

/-- A run of a tick with an empty drain, after which FRAME_SEQ reads as before, with no update; the last byte of F_MIX
is one update. -/
theorem witness_FrameSeqProtocolGivesOneFrame :
    Instr.rst ∉ emptyTickOps ∧ updates emptyTickOps { State.reset with pending := true } < 2 ^ 32 ∧
    updates [.pstep] { lastByteState with tph := .parsing, wq := [0x0F] } = 1 ∧
    runs emptyTickOps { State.reset with pending := true } (fun t => t.frameSeq == State.reset.frameSeq) = true := by
  decide +kernel

/-- Overflow, no overflow, and a byte parsed. -/
theorem witness_BytesInFlightAreConserved :
    (fullState.Inv ∧ fullState.level = fullState.cfg.intakeCap ∧ ∃ t, exec (.rxb 0) fullState = .next t) ∧
    dueState.Inv ∧ parsingState.Inv ∧ (∃ t, exec (.rxb 0) dueState = .next t) ∧
    (∃ t, exec .pstep parsingState = .next t) ∧ (∃ t, exec .dsnap dueState = .next t) ∧
    (Instr.rxb 0).isEvent = true ∧ Instr.rxb 0 ≠ .rst :=
  ⟨⟨full_inv, rfl, _, rfl⟩, due_inv, parsing_inv, ⟨_, rfl⟩, ⟨_, rfl⟩, ⟨_, rfl⟩, by decide⟩

/-- A block of one byte: R101's overflow discards 0x0A, RST discards 0x0B, and 0x0C is received after it. -/
theorem test_survivors :
    survivors [.rxb 0x0A, .rxb 0x0B] (State.resetWith ⟨1, 10000⟩) [] = [0x0B] ∧
    survivors [.rxb 0x0A, .rxb 0x0B, .rst, .rxb 0x0C] (State.resetWith ⟨1, 10000⟩) [] = [0x0C] := by decide

/-- Drain the three held bytes while a fourth arrives; an overflow of a full intake, and then a reset. -/
theorem witness_ParserSeesTheReceivedBytesInOrder :
    dueState.Inv ∧ (∀ i ∈ [Instr.dsnap, .rxb 0xAA, .pstep, .pstep], i.isEvent = true) ∧
    Instr.rst ∉ [Instr.dsnap, .rxb 0xAA, .pstep, .pstep] ∧
    runs [.dsnap, .rxb 0xAA, .pstep, .pstep] dueState
      (fun t => t.ovfCnt == dueState.ovfCnt && inFlight t == [0x16, 0xAA]) = true ∧
    fullState.Inv ∧ (∀ i ∈ [Instr.rxb 0x01, .rst], i.isEvent = true) ∧
    runs [.rxb 0x01] fullState (fun t => inFlight t == [0x01]) = true ∧
    runs [.rxb 0x01, .rst] fullState (fun t => inFlight t == []) = true :=
  ⟨due_inv, by decide, by decide, by decide, full_inv, by decide, by decide, by decide⟩

theorem witness_ArrivalCommutesWithParsing :
    parsingState.Inv ∧ parsingState.tph = .parsing ∧ parsingState.wq ≠ [] := ⟨parsing_inv, by decide⟩

end Sys2Proof.Tests
end

/-! PROOFS. The scope statements (00_scope.md R10, R11): how a word of each decode table is placed and read back, that
an operation or class steps exactly when its guard holds, and the fault by which it stops otherwise. -/

namespace Sys2Proof

/-! ### Words of the three decode tables (R76 to R82, R72) -/

/-- R78: the word of a well-formed event operation decodes to that operation. -/
theorem decodeEvent_wordOf (i : Instr) (hw : i.wellFormed = true) (he : i.isEvent = true) :
    decodeEvent (wordOf i) = .ok i := by
  cases i with
  | rxb b => simp [wordOf, encode, decodeEvent, byteOperand]
  | brd off =>
    have ho : off.toNat % 4 = 0 := by simpa [Instr.wellFormed] using hw
    simp [wordOf, encode, decodeEvent, alignedOffset, byteOperand, lowBits_eventWord, lowBits_eq_zero, ho]
  | bwr off data =>
    have ho : off.toNat % 4 = 0 := by simpa [Instr.wellFormed] using hw
    simp [wordOf, encode, decodeEvent, alignedOffset, writeOperand, lowBits_eventWord, lowBits_eq_zero, ho]
  | tinc | tack | dsnap | pstep | dend | rst => rfl
  | syncHit | syncMiss | lenZero | len | body | typeAccept | typeOther => cases he

/-- R82: two parser input words are equal when their two fields are. -/
theorem pinWord_inj (c c' : BitVec 2) (b b' : Byte) : pinWord c b = pinWord c' b' ↔ c = c' ∧ b = b' := by
  constructor
  · intro h
    exact ⟨by simpa using congrArg (·.extractLsb' 8 2) h, by simpa using congrArg (·.extractLsb' 0 8) h⟩
  · rintro ⟨rfl, rfl⟩
    rfl

/-- R82: a row whose mask keeps the whole word fixes both fields. -/
theorem pinWord_selects_exact (c c' : BitVec 2) (b b' : Byte) :
    pinWord c b &&& 0x3FF = pinWord c' b' ↔ c = c' ∧ b = b' := by
  rw [show (0x3FF : BitVec 10) = BitVec.allOnes 10 from rfl, BitVec.and_allOnes, pinWord_inj]

/-- R82: a row whose mask keeps only the parser state fixes that field alone. -/
theorem pinWord_selects_state (c c' : BitVec 2) (b : Byte) : pinWord c b &&& 0x300 = pinWord c' 0 ↔ c = c' := by
  rw [Laws.pinWord_and_state, pinWord_inj, and_iff_left rfl]

/-- R82: the input class of a parser input word, by its two fields. -/
theorem decodePin_pinWord (c : BitVec 2) (b : Byte) :
    decodePin (pinWord c b) =
      if c = 0 ∧ b = syncByte then .ok .syncHit
      else if c = 0 then .ok (.syncMiss b)
      else if c = 1 ∧ b = 0 then .ok .lenZero
      else if c = 1 then .ok (.len b)
      else if c = 2 then .ok (.body b)
      else .error .noInputClass := by
  have hit : (0x0C8 : BitVec 10) = pinWord 0 syncByte := by decide
  have miss : (0x000 : BitVec 10) = pinWord 0 0 := by decide
  have len : (0x100 : BitVec 10) = pinWord 1 0 := by decide
  have body : (0x200 : BitVec 10) = pinWord 2 0 := by decide
  rw [decodePin, hit, miss, len, body]
  simp only [pinWord_selects_exact, pinWord_selects_state, byte_pinWord]

/-- R72: the type class of a body byte at CURSOR = 0. -/
theorem decodeType_eq (t : Byte) : decodeType t = .ok (if t = acceptType then .typeAccept else .typeOther t) := by
  rw [decodeType, show (0xFF : Byte) = BitVec.allOnes 8 from rfl, BitVec.and_allOnes, acceptType]
  split <;> rfl

theorem tableCode_event (w : Word) : tableCode 32 w.toNat = some (.event w) := by
  simp [tableCode, w.isLt]

theorem tableCode_pin (p : BitVec 10) : tableCode 16 p.toNat = some (.pin p) := by
  simp [tableCode, p.isLt]

theorem tableCode_typeByte (t : Byte) : tableCode 8 t.toNat = some (.typeByte t) := by
  simp [tableCode, t.isLt]

end Sys2Proof

namespace Sys2Proof.Machine

/-! ### The step and the placed word (R10, R76, R130) -/

/-- R10, R76: the step when the next supplied word names an operation. -/
theorem step_of_decode (s : State) (w : Word) (rest : List Word) (i : Instr) (hs : s.events = w :: rest)
    (hd : decodeEvent w = .ok i) : step s = exec i { s with events := rest } := by
  rw [step_cons s w rest hs, hd]

/-- R11: with nothing supplied no agent has a step. -/
theorem step_of_no_events (s : State) (hs : s.events = []) : step s = .fault .noOperation := by
  simp [step, takeEvent, hs]

/-- Settles O6: a step takes the next supplied word and is `exec` of the operation that the word names. -/
theorem stepRunsTheDecodedOperation : Obligations.StepRunsTheDecodedOperation :=
  fun s => ⟨step_of_decode s, step_of_no_events s⟩

theorem step_placeEvent (w : Word) (s : State) (i : Instr) (hd : decodeEvent w = .ok i) :
    step (placeEvent w s) = exec i s :=
  step_of_decode (placeEvent w s) w s.events i rfl hd

/-- R114: the byte placed by `placeByte` is the one the next step gives to the parser. -/
theorem step_placeByte (b : Byte) (s : State) :
    step (placeByte b s) = .next (parseByte b { s with tph := .parsing }) := by
  rw [placeByte, step_placeEvent 0x50000000 _ .pstep rfl]
  exact exec_pstep_cons { s with wq := b :: s.wq, tph := .parsing } b s.wq rfl rfl

/-- R25: the code of a parser state names that state. -/
@[simp] theorem pstateOfCode_code (st : PState) : pstateOfCode st.code = some st := by cases st <;> rfl

theorem withFetchWord_event (s : State) (w : Word) : s.withFetchWord 32 w.toNat = placeEvent w s := by
  simp [State.withFetchWord, tableCode_event]

theorem withFetchWord_pin (s : State) (st : PState) (b : Byte) :
    s.withFetchWord 16 (pinWord st.code b).toNat = placeByte b { s with pstate := st } := by
  simp [State.withFetchWord, tableCode_pin, placePin]

theorem withFetchWord_typeByte (s : State) (t : Byte) :
    s.withFetchWord 8 t.toNat = placeByte t { s with pstate := .readPayload, cursor := 0 } := by
  simp [State.withFetchWord, tableCode_typeByte, placeType]

/-- R82, R130: the parser input word of a state and a byte decodes to a class whose meaning there is the parser's step
on that byte. -/
theorem exec_pinClass_eq_parseByte (b : Byte) (s : State) :
    ∃ i, decodePin (parserInput s b) = .ok i ∧ exec i s = .next (parseByte b s) := by
  rw [parserInput, decodePin_pinWord]
  cases hp : s.pstate with
  | awaitSync =>
    by_cases hb : b = syncByte
    · subst hb
      exact ⟨.syncHit, by simp [PState.code], (exec_syncHit_next s _).2 ⟨hp, rfl⟩⟩
    · exact ⟨.syncMiss b, by simp [PState.code, hb], (exec_syncMiss_next b s _).2 ⟨hp, hb, rfl⟩⟩
  | readLen =>
    by_cases hb : b = 0
    · subst hb
      exact ⟨.lenZero, by simp [PState.code], (exec_lenZero_next s _).2 ⟨hp, rfl⟩⟩
    · exact ⟨.len b, by simpa [PState.code] using hb, (exec_len_next b s _).2 ⟨hp, hb, rfl⟩⟩
  | readPayload => exact ⟨.body b, by simp [PState.code], (exec_body_next b s _).2 ⟨hp, rfl⟩⟩

/-- R72, R132: in READ_PAYLOAD at CURSOR = 0 the type byte decodes to a class whose meaning is the parser's step on that
byte. -/
theorem exec_typeClass_eq_parseByte (b : Byte) (s : State) (hp : s.pstate = .readPayload) (hc : s.cursor = 0) :
    ∃ i, decodeType b = .ok i ∧ exec i s = .next (parseByte b s) := by
  rw [decodeType_eq]
  refine ⟨_, rfl, ?_⟩
  split
  · next hb => exact hb ▸ (exec_typeAccept_next s _).2 ⟨hp, hc, rfl⟩
  · next hb => exact (exec_typeOther_next b s _).2 ⟨hp, hc, hb, rfl⟩

/-- Settles O7: an event word is placed at the head of the supply; a parser input word or a type byte is placed as the
byte of the next PSTEP, whose parser step is the meaning of the class the word decodes to. -/
theorem placedWordIsRunNext : Obligations.PlacedWordIsRunNext := by
  refine ⟨fun s i hw he => ?_, fun s st b => ?_, fun s b => ?_⟩
  · rw [withFetchWord_event]
    exact step_placeEvent (wordOf i) s i (decodeEvent_wordOf i hw he)
  · rw [withFetchWord_pin, step_placeByte]
    obtain ⟨i, hd, hx⟩ := exec_pinClass_eq_parseByte b { s with pstate := st, tph := .parsing }
    exact ⟨i, hd, hx.symm⟩
  · rw [withFetchWord_typeByte, step_placeByte]
    obtain ⟨i, hd, hx⟩ :=
      exec_typeClass_eq_parseByte b { s with pstate := .readPayload, cursor := 0, tph := .parsing } rfl rfl
    exact ⟨i, hd, hx.symm⟩

/-! ### Operations that are enabled and operations that are not (R11, R202, R82) -/

theorem tackEnabled_eq_true (s : State) : tackEnabled s = true ↔ s.pending = true ∧ s.tph = .idle := by
  simp [tackEnabled]

theorem dsnapEnabled_eq_true (s : State) : dsnapEnabled s = true ↔ s.tph = .due := by simp [dsnapEnabled]

theorem pstepEnabled_eq_true (s : State) : pstepEnabled s = true ↔ s.tph = .parsing ∧ s.wq ≠ [] := by
  simp [pstepEnabled]

theorem dendEnabled_eq_true (s : State) : dendEnabled s = true ↔ s.tph = .parsing ∧ s.wq = [] := by
  simp [dendEnabled]

/-- R112. -/
theorem exec_tack_not_enabled (s : State) (h : ¬ tackEnabled s = true) : exec .tack s = .fault .tackNotEnabled :=
  if_neg h

/-- R113. -/
theorem exec_dsnap_not_enabled (s : State) (h : ¬ dsnapEnabled s = true) : exec .dsnap s = .fault .dsnapNotEnabled :=
  if_neg h

/-- R114. -/
theorem exec_pstep_not_enabled (s : State) (h : ¬ pstepEnabled s = true) :
    exec .pstep s = .fault .pstepNotEnabled := by
  rw [pstepEnabled_eq_true] at h
  show execPstep s = _
  unfold execPstep
  split
  · next hp =>
    have hw : s.wq = [] := by simpa [hp] using h
    simp [hw]
  · rfl

/-- R115. -/
theorem exec_dend_not_enabled (s : State) (h : ¬ dendEnabled s = true) : exec .dend s = .fault .dendNotEnabled :=
  if_neg h

/-- R82: a parser or type class outside its row stops. -/
theorem exec_class_not_enabled (i : Instr) (s : State) (hi : i.isEvent = false) (h : enabled i s = false) :
    exec i s = .fault .inputClassNotSelected := by
  cases i with
  | rxb | tinc | tack | dsnap | pstep | dend | brd | bwr | rst => cases hi
  | syncHit | syncMiss | lenZero | len | body | typeAccept | typeOther =>
    exact if_neg (by simpa [enabled] using h)

/-- Settles O10: each guarded operation, and each class outside its row, stops under its own fault. -/
theorem notEnabledOperationFaults : Obligations.NotEnabledOperationFaults := by
  refine fun s => ⟨fun h => exec_tack_not_enabled s ?_, fun h => exec_dsnap_not_enabled s ?_,
    fun h => exec_pstep_not_enabled s ?_, fun h => exec_dend_not_enabled s ?_,
    fun i => exec_class_not_enabled i s⟩
  · rw [tackEnabled_eq_true, not_and_or, Bool.not_eq_true]; exact h
  · rw [dsnapEnabled_eq_true]; exact h
  · rw [pstepEnabled_eq_true, not_and_or, not_not]; exact h
  · rw [dendEnabled_eq_true, not_and_or]; exact h

/-- R11: an operation whose guard is false has no step. -/
theorem exec_faults_of_not_enabled (i : Instr) (s : State) (h : enabled i s = false) : ∃ f, exec i s = .fault f := by
  cases i with
  | rxb | tinc | brd | bwr | rst => cases h
  | tack => exact ⟨_, exec_tack_not_enabled s (Bool.eq_false_iff.1 h)⟩
  | dsnap => exact ⟨_, exec_dsnap_not_enabled s (Bool.eq_false_iff.1 h)⟩
  | pstep => exact ⟨_, exec_pstep_not_enabled s (Bool.eq_false_iff.1 h)⟩
  | dend => exact ⟨_, exec_dend_not_enabled s (Bool.eq_false_iff.1 h)⟩
  | syncHit | syncMiss | lenZero | len | body | typeAccept | typeOther =>
    exact ⟨_, exec_class_not_enabled _ s rfl h⟩

/-- R82: a parser or type class whose row is selected does not stop, in any state. -/
theorem exec_class_steps_of_enabled (i : Instr) (s : State) (hi : i.isEvent = false) (h : enabled i s = true) :
    ∃ t, exec i s = .next t := by
  cases i with
  | rxb | tinc | tack | dsnap | pstep | dend | brd | bwr | rst => cases hi
  | syncHit | syncMiss | lenZero | len | body | typeAccept | typeOther =>
    exact ⟨_, if_pos (by simpa [enabled, and_assoc] using h)⟩

/-- R11, R202: an operation whose guard holds has a step; LEVEL <= INTAKE_CAP keeps RXB and DSNAP inside IB (R51), and
well-formedness keeps BRD and BWR aligned (R56). -/
theorem exec_steps_of_enabled (i : Instr) (s : State) (hw : i.wellFormed = true) (hv : s.Inv)
    (h : enabled i s = true) : ∃ t, exec i s = .next t := by
  cases i with
  | rxb b => exact exec_rxb_total b s hv.cfgValid.1 hv.levelBound
  | tinc => exact ⟨_, exec_tinc s⟩
  | tack =>
    obtain ⟨hp, ht⟩ := (tackEnabled_eq_true s).1 h
    exact ⟨_, (exec_tack_next s _).2 ⟨hp, ht, rfl⟩⟩
  | dsnap => exact ⟨_, (exec_dsnap_next s _).2 ⟨(dsnapEnabled_eq_true s).1 h, hv.levelBound, rfl⟩⟩
  | pstep =>
    obtain ⟨ht, hq⟩ := (pstepEnabled_eq_true s).1 h
    obtain ⟨b, rest, hq⟩ := List.exists_cons_of_ne_nil hq
    exact ⟨_, exec_pstep_cons s b rest ht hq⟩
  | dend =>
    obtain ⟨ht, hq⟩ := (dendEnabled_eq_true s).1 h
    exact ⟨_, (exec_dend_next s _).2 ⟨ht, hq, rfl⟩⟩
  | brd off => exact ⟨_, (exec_brd_next off s _).2 ⟨by simpa [Instr.wellFormed] using hw, rfl⟩⟩
  | bwr off data => exact ⟨_, (exec_bwr_next off data s _).2 ⟨by simpa [Instr.wellFormed] using hw, rfl⟩⟩
  | rst => exact ⟨_, exec_rst s⟩
  | syncHit | syncMiss | lenZero | len | body | typeAccept | typeOther =>
    exact exec_class_steps_of_enabled _ s rfl h

/-- Settles O9: in a state that meets the invariants an operation has a step when its guard holds and a fault when it
does not. -/
theorem operationStepsExactlyWhenEnabled : Obligations.OperationStepsExactlyWhenEnabled :=
  fun i s hw hv => ⟨exec_steps_of_enabled i s hw hv, exec_faults_of_not_enabled i s⟩

end Sys2Proof.Machine

/-! PROOFS. The statements about the state (10_state.md R31, R32, R40): the parameters are constant, the STATUS flags are
sticky, and each counter advances together with its flag. The last two rest on one lemma, `exec_records`: what an
operation can do to the flags and the counters. -/

namespace Sys2Proof.Machine

/-! ### The parameters (R40) -/

@[simp] theorem timerTick_cfg (s : State) : (timerTick s).cfg = s.cfg := by rw [timerTick_frame]

@[simp] theorem regWrite_cfg (v : Word) (off : Byte) (s : State) : (regWrite v off s).cfg = s.cfg := by
  rw [regWrite_frame]

/-- R40: no operation writes the parameters. -/
theorem exec_cfg (i : Instr) (s t : State) (h : exec i s = .next t) : t.cfg = s.cfg := by
  rcases exec_cases i s t h with ⟨_, _, _, _, rfl⟩ | ⟨_, _, _, rfl⟩ | ⟨_, rfl⟩ | ⟨_, _, _, rfl⟩ | ⟨_, _, _, rfl⟩ |
    ⟨_, _, _, _, _, rfl⟩ | ⟨_, _, _, rfl⟩ | ⟨_, _, _, rfl⟩ | ⟨_, _, _, _, rfl⟩ | ⟨_, rfl⟩ | ⟨_, _, _, _, rfl⟩
  all_goals simp

theorem regRead_config0 (s : State) : regRead s 0x64 = expectLen ++ poly ++ acceptType ++ syncByte := by
  rw [regRead, show registerAt 0x64 = .config0 by decide]
  rfl

theorem regRead_config1 (s : State) : regRead s 0x68 = BitVec.ofNat 32 s.cfg.intakeCap := by
  rw [regRead, show registerAt 0x68 = .config1 by decide]
  rfl

theorem regRead_config2 (s : State) : regRead s 0x6C = s.cfg.tickPeriod := by
  rw [regRead, show registerAt 0x6C = .config2 by decide]
  rfl

/-- Settles O53: every operation keeps the parameters, and the three CONFIG registers read them. -/
theorem parametersAreConstant : Obligations.ParametersAreConstant :=
  ⟨exec_cfg, fun s => ⟨regRead_config0 s, regRead_config1 s, regRead_config2 s⟩⟩

/-! ### The records: the STATUS flags and the counters (R31, R32, R201) -/

/-- R31, R32: the flags and the counters of a state. -/
structure Records where
  new : Bool
  crcErr : Bool
  ovf : Bool
  lenErr : Bool
  frameSeq : Word
  crcErrCnt : Word
  ovfCnt : Word

/-- R31, R32: the flags and the counters as they stand in a state. -/
def State.records (s : State) : Records :=
  ⟨s.new, s.crcErr, s.ovf, s.lenErr, s.frameSeq, s.crcErrCnt, s.ovfCnt⟩

theorem records_eq_iff (s t : State) :
    t.records = s.records ↔
      t.new = s.new ∧ t.crcErr = s.crcErr ∧ t.ovf = s.ovf ∧ t.lenErr = s.lenErr ∧
      t.frameSeq = s.frameSeq ∧ t.crcErrCnt = s.crcErrCnt ∧ t.ovfCnt = s.ovfCnt := by
  simp only [State.records, Records.mk.injEq]

theorem flag_eq_of_records_eq (s t : State) (f : StatusFlag) (h : t.records = s.records) : t.flag f = s.flag f := by
  obtain ⟨hnew, hcrc, hovf, hlen, -⟩ := (records_eq_iff s t).1 h
  cases f with
  | new => exact hnew
  | crcErr => exact hcrc
  | ovf => exact hovf
  | lenErr => exact hlen

/-- R201: an event is recorded by its flag, and by its counter where it has one. -/
def recordEvent : StatusFlag → State → State
  | .new => recordUpdate
  | .crcErr => recordCrcError
  | .ovf => recordOverflow
  | .lenErr => recordLenError

/-- R31: recording an event sets its flag and no other. -/
theorem recordEvent_flag (e f : StatusFlag) (s : State) :
    (recordEvent e s).flag f = if f = e then true else s.flag f := by
  cases e <;> cases f <;> rfl

/-- R184: a write of `v` to STATUS clears exactly the flags whose bit of `v` is 1. -/
theorem statusW1C_flag (v : Word) (s : State) (f : StatusFlag) :
    (statusW1C v s).flag f = (s.flag f && !v.getLsbD f.bit) := by
  cases f <;> rfl

/-- R77, R183: the 16 data bits of a BWR are the low bits of the value it writes. -/
theorem writeValue_flag_bit (data : BitVec 16) (f : StatusFlag) :
    (writeValue data).getLsbD f.bit = data.getLsbD f.bit := by
  cases f <;> simp [writeValue, StatusFlag.bit]

theorem timerTick_records (s : State) : (timerTick s).records = s.records := by
  rw [timerTick_frame]
  rfl

/-- R201, R206: `t` has the records of `s`, or those of `s` with one event recorded: an overflow only if the intake of
`s` was full (R101). -/
def RecordsAtMostOneEvent (s t : State) : Prop :=
  t.records = s.records ∨ ∃ e, (e = .ovf → s.level = s.cfg.intakeCap) ∧ t.records = (recordEvent e s).records

theorem parseByte_recordsAtMostOneEvent (b : Byte) (s : State) : RecordsAtMostOneEvent s (parseByte b s) := by
  have hovf := parseByte_ovf b s
  have hocnt := parseByte_ovfCnt b s
  rcases parseByte_records b s with ⟨_, hseq, hnew, hcnt, hcrc, hlen⟩ | ⟨_, hseq, hnew, hcnt, hcrc, hlen⟩ |
    ⟨_, _, hseq, hnew, hcnt, hcrc, hlen⟩ | ⟨_, _, hseq, hnew, hcnt, hcrc, hlen⟩
  · exact .inl ((records_eq_iff _ _).2 ⟨hnew, hcrc, hovf, hlen, hseq, hcnt, hocnt⟩)
  · exact .inr ⟨.new, nofun, (records_eq_iff _ _).2 ⟨hnew, hcrc, hovf, hlen, hseq, hcnt, hocnt⟩⟩
  · exact .inr ⟨.crcErr, nofun, (records_eq_iff _ _).2 ⟨hnew, hcrc, hovf, hlen, hseq, hcnt, hocnt⟩⟩
  · exact .inr ⟨.lenErr, nofun, (records_eq_iff _ _).2 ⟨hnew, hcrc, hovf, hlen, hseq, hcnt, hocnt⟩⟩

/-- R31, R32: all that an operation can do to the records. It records at most one event, or it is a write to STATUS, or
RST. -/
theorem exec_records (i : Instr) (s t : State) (h : exec i s = .next t) :
    RecordsAtMostOneEvent s t ∨ (∃ data, i = .bwr 0x40 data ∧ t = statusW1C (writeValue data) s) ∨ i = .rst := by
  rcases exec_cases i s t h with ⟨_, _, hfull, _, rfl⟩ | ⟨_, _, _, rfl⟩ | ⟨_, rfl⟩ | ⟨_, _, _, rfl⟩ | ⟨_, _, _, rfl⟩ |
    ⟨b, rest, _, _, _, rfl⟩ | ⟨_, _, _, rfl⟩ | ⟨_, _, _, rfl⟩ | ⟨off, data, rfl, _, rfl⟩ | ⟨hrst, _⟩ | ⟨b, _, _, _, rfl⟩
  · exact .inl (.inr ⟨.ovf, fun _ => hfull, rfl⟩)
  · exact .inl (.inl rfl)
  · exact .inl (.inl (timerTick_records s))
  · exact .inl (.inl rfl)
  · exact .inl (.inl rfl)
  · rw [parseByte_with_wq]
    exact .inl (parseByte_recordsAtMostOneEvent b s)
  · exact .inl (.inl rfl)
  · exact .inl (.inl rfl)
  · rcases regWrite_cases (writeValue data) off s with ⟨rfl, hw⟩ | ⟨_, hw⟩
    · exact .inr (.inl ⟨data, rfl, hw⟩)
    · exact .inl (.inl (by rw [hw]))
  · exact .inr (.inr hrst)
  · exact .inl (parseByte_recordsAtMostOneEvent b s)

/-- Settles O54: recording an event clears no flag, and a write to STATUS clears those whose bit it writes as 1. -/
theorem statusFlagsAreSticky : Obligations.StatusFlagsAreSticky := by
  intro i s t f h hset hclear
  rcases exec_records i s t h with (hr | ⟨e, _, hr⟩) | ⟨data, rfl, rfl⟩ | hrst
  · rw [flag_eq_of_records_eq s t f hr, hset] at hclear
    cases hclear
  · rw [flag_eq_of_records_eq _ t f hr, recordEvent_flag, hset, ite_self] at hclear
    cases hclear
  · rw [statusW1C_flag, hset, writeValue_flag_bit, Bool.true_and, Bool.not_eq_false'] at hclear
    exact .inr ⟨data, rfl, hclear⟩
  · exact .inl hrst

/-- Settles O55: an operation but RST leaves the counters, or records one event, which advances the counter of that event
alone and sets its flag. -/
theorem countersAdvanceWithTheirFlags : Obligations.CountersAdvanceWithTheirFlags := by
  intro i s t hi h
  rcases exec_records i s t h with (hr | ⟨e, hfull, hr⟩) | ⟨data, _, rfl⟩ | hrst
  · obtain ⟨_, _, _, _, hseq, hcnt, hocnt⟩ := (records_eq_iff _ _).1 hr
    exact ⟨.inl hseq, .inl hcnt, .inl hocnt⟩
  · obtain ⟨hnew, hcrc, hovf, _, hseq, hcnt, hocnt⟩ := (records_eq_iff _ _).1 hr
    cases e with
    | new => exact ⟨.inr ⟨hseq, hnew⟩, .inl hcnt, .inl hocnt⟩
    | crcErr => exact ⟨.inl hseq, .inr ⟨hcnt, hcrc⟩, .inl hocnt⟩
    | ovf => exact ⟨.inl hseq, .inl hcnt, .inr ⟨hocnt, hovf, hfull rfl⟩⟩
    | lenErr => exact ⟨.inl hseq, .inl hcnt, .inl hocnt⟩
  · exact ⟨.inl rfl, .inl rfl, .inl rfl⟩
  · exact absurd hrst hi

end Sys2Proof.Machine

/-! PROOFS. The statements about the byte arrays and the order of steps (20_memory.md R51, R52, R56, R62): when an access
is refused or stops, the unpacker's bitstream, that a run of supplied words is the run of the operations they name, that
the bytes in flight are conserved, and that the parser sees the received bytes in order. -/

namespace Sys2Proof.Machine

/-! ### Accesses that are refused or stop (R51, R56) -/

/-- R51: a byte is not appended outside IB. -/
theorem intakeAppend_faults (b : Byte) (s : State) (h : s.cfg.intakeCap ≤ s.level) :
    intakeAppend b s = .fault .indexOutOfRange :=
  if_neg (Nat.not_lt.2 h)

/-- R51: no snapshot is taken of indices outside IB. -/
theorem intakeSnapshot_faults (s : State) (h : s.cfg.intakeCap < s.level) :
    intakeSnapshot s = .fault .indexOutOfRange :=
  if_neg (Nat.not_le.2 h)

/-- Settles O12: LEVEL above INTAKE_CAP is no overflow, so RXB appends, and a due DSNAP takes the snapshot; both would use
an index outside IB. -/
theorem indexOutsideTheIntakeFaults : Obligations.IndexOutsideTheIntakeFaults := by
  refine fun s b h => ⟨?_, fun hdue => ?_⟩
  · have happend : exec (.rxb b) s = intakeAppend b s :=
      congrArg (intakeAppend b) (if_neg (Nat.ne_of_gt h))
    rw [happend, intakeAppend_faults b s (Nat.le_of_lt h)]
  · have hsnap : exec .dsnap s = intakeSnapshot s := if_pos ((dsnapEnabled_eq_true s).2 hdue)
    rw [hsnap, intakeSnapshot_faults s h]

/-- R56: an offset is aligned when it is a multiple of 4. -/
theorem alignedOff_eq_true (off : Byte) : alignedOff off = true ↔ off.toNat % 4 = 0 := by simp [alignedOff]

/-- Settles O46: both bus accesses test the alignment first. -/
theorem misalignedBusAccessIsRefused : Obligations.MisalignedBusAccessIsRefused := by
  intro s off data h
  rw [Ne, ← alignedOff_eq_true] at h
  exact ⟨if_neg h, if_neg h⟩

/-! ### The unpacker (R52, R171) -/

/-- R170: after the first `n` passes of the loop, the stream bits below `n` are in their places. -/
theorem unpackLoop_bit (d : Vector Byte 22) (acc : Vector Chan 16) (n k j : Nat) (hk : k < 16) (hj : j < 11) :
    (((List.range n).foldl (unpackStep d) acc).getD k 0).getLsbD j =
      ((acc.getD k 0).getLsbD j || (decide (11 * k + j < n) && streamBit d (11 * k + j))) := by
  induction n with
  | zero => simp
  | succ n ih =>
    rw [List.range_succ, List.foldl_append, List.foldl_cons, List.foldl_nil, unpackStep_bit d _ n k j hk hj, ih,
      Bool.or_assoc]
    congr 1
    rcases Nat.lt_trichotomy (11 * k + j) n with hlt | heq | hgt
    · simp [hlt, Nat.lt_succ_of_lt hlt, Nat.ne_of_gt hlt]
    · simp [heq]
    · simp [Nat.not_lt.2 (Nat.le_of_lt hgt), Nat.not_lt.2 hgt, Nat.ne_of_lt hgt]

/-- R52, R170: bit `j` of channel `k` is stream bit `11k + j`. -/
theorem unpack_bit (d : Vector Byte 22) (k j : Nat) (hk : k < 16) (hj : j < 11) :
    ((unpack d).getD k 0).getLsbD j = streamBit d (11 * k + j) := by
  have hp : 11 * k + j < nch * bpc := by simp only [nch, bpc]; omega
  rw [unpack, unpackLoop_bit d _ _ k j hk hj]
  simp [hp, vector_getD, hk]

/-- R171: bit `p` of the number `W` that the data bytes spell is stream bit `p`. -/
theorem testBit_dataNumber (d : Vector Byte 22) (p : Nat) (hp : p < 176) :
    ((List.range 22).map fun j => (d.getD j 0).toNat <<< (8 * j)).sum.testBit p = streamBit d p := by
  rw [(testBit_sum_shift 8 (by decide) (fun j => (d.getD j 0).toNat) (fun j => (d.getD j 0).isLt) 22 p).1,
    decide_eq_true hp, Bool.true_and, BitVec.testBit_toNat, streamBit]

/-- R171: `CH[k] = (W >> 11k) & 0x7FF`. -/
theorem unpack_closed_form (d : Vector Byte 22) (k : Nat) (hk : k < 16) :
    ((unpack d).getD k 0).toNat =
      (((List.range 22).map fun j => (d.getD j 0).toNat <<< (8 * j)).sum >>> (11 * k)) &&& 0x7FF := by
  apply Nat.eq_of_testBit_eq
  intro i
  rw [Nat.testBit_and, Nat.testBit_shiftRight, show (0x7FF : Nat) = 2 ^ 11 - 1 from rfl, Nat.testBit_two_pow_sub_one,
    BitVec.testBit_toNat]
  by_cases hi : i < 11
  · rw [unpack_bit d k i hk hi, testBit_dataNumber d _ (by omega), decide_eq_true hi, Bool.and_true]
  · rw [BitVec.getLsbD_of_ge _ i (Nat.not_lt.1 hi), decide_eq_false hi, Bool.and_false]

/-- Settles O42: the loop puts each stream bit in its place, and the data number has the same bits. -/
theorem unpackerReadsTheLittleEndianBitstream : Obligations.UnpackerReadsTheLittleEndianBitstream :=
  fun d => ⟨unpack_bit d, unpack_closed_form d⟩

/-! ### A run of supplied words (R62, R76) -/

/-- R10: the outcome with other operations still in the supply. -/
def supplyAfter (e : List Word) : Result → Result
  | .next t => .next { t with events := e }
  | .fault r => .fault r
  | .refused r => .refused r

theorem supplyAfter_ite (e : List Word) (c : Prop) [Decidable c] (r r' : Result) :
    (if c then supplyAfter e r else supplyAfter e r') = supplyAfter e (if c then r else r') :=
  (apply_ite (supplyAfter e) c r r').symm

theorem regRead_with_events (s : State) (e : List Word) (off : Byte) :
    regRead { s with events := e } off = regRead s off := by
  unfold regRead
  cases registerAt off <;> rfl

theorem regWrite_with_events (v : Word) (off : Byte) (s : State) (e : List Word) :
    regWrite v off { s with events := e } = { regWrite v off s with events := e } := by
  unfold regWrite
  cases registerAt off <;> rfl

theorem timerTick_with_events (s : State) (e : List Word) :
    timerTick { s with events := e } = { timerTick s with events := e } := by
  unfold timerTick
  split <;> rfl

theorem parseByte_with_events (b : Byte) (s : State) (e : List Word) :
    parseByte b { s with events := e } = { parseByte b s with events := e } := by
  have h := parseByte_withOuter b { s with events := e } s
  refine h.trans ?_
  conv_rhs => rw [parseByte_frame b s]
  rfl

theorem intakeAppend_with_events (b : Byte) (s : State) (e : List Word) :
    intakeAppend b { s with events := e } = supplyAfter e (intakeAppend b s) :=
  supplyAfter_ite e (s.level < s.cfg.intakeCap)
    (.next { s with ib := Memory.write s.ib s.level b, level := s.level + 1 }) (.fault .indexOutOfRange)

theorem intakeSnapshot_with_events (s : State) (e : List Word) :
    intakeSnapshot { s with events := e } = supplyAfter e (intakeSnapshot s) :=
  supplyAfter_ite e (s.level ≤ s.cfg.intakeCap)
    (.next { s with wq := intakeHeld s, level := 0, tph := .parsing }) (.fault .indexOutOfRange)

theorem execRxb_with_events (b : Byte) (s : State) (e : List Word) :
    execRxb b { s with events := e } = supplyAfter e (execRxb b s) := by
  unfold execRxb
  split
  · exact intakeAppend_with_events b (intakeOverflow s) e
  · exact intakeAppend_with_events b s e

theorem execDsnap_with_events (s : State) (e : List Word) :
    execDsnap { s with events := e } = supplyAfter e (execDsnap s) := by
  unfold execDsnap
  rw [intakeSnapshot_with_events]
  exact supplyAfter_ite e (dsnapEnabled s) (intakeSnapshot s) (.fault .dsnapNotEnabled)

theorem execPstep_with_events (s : State) (e : List Word) :
    execPstep { s with events := e } = supplyAfter e (execPstep s) := by
  unfold execPstep
  split
  · cases hq : s.wq with
    | nil => rfl
    | cons b rest => exact congrArg Host.Outcome.next (parseByte_with_events b { s with wq := rest } e)
  · rfl

/-- R10: no event operation looks at the agents' supply. -/
theorem exec_with_events (i : Instr) (hi : i.isEvent = true) (s : State) (e : List Word) :
    exec i { s with events := e } = supplyAfter e (exec i s) := by
  cases i with
  | rxb b => exact execRxb_with_events b s e
  | tinc => exact congrArg Host.Outcome.next (timerTick_with_events s e)
  | tack => exact supplyAfter_ite e (tackEnabled s) (.next (acknowledgeTick s)) (.fault .tackNotEnabled)
  | dsnap => exact execDsnap_with_events s e
  | pstep => exact execPstep_with_events s e
  | dend => exact supplyAfter_ite e (dendEnabled s) (.next (endTick s)) (.fault .dendNotEnabled)
  | brd off =>
    simp only [exec, execBrd, regRead_with_events]
    exact supplyAfter_ite e (alignedOff off) (.next (returnToHost (regRead s off) s)) (.refused .misaligned)
  | bwr off data =>
    simp only [exec, execBwr, regWrite_with_events]
    exact supplyAfter_ite e (alignedOff off) (.next (regWrite (writeValue data) off s)) (.refused .misaligned)
  | rst => rfl
  | syncHit | syncMiss | lenZero | len | body | typeAccept | typeOther => cases hi

/-- R62: a run of supplied words, from the supply that holds them. -/
theorem run_supplied_words (is : List Instr) (s : State) (rest : List Word)
    (h : ∀ i ∈ is, i.isEvent = true ∧ i.wellFormed = true) :
    (core.run is.length ({ s with events := is.map wordOf ++ rest } : State) : Result) =
      execAll is { s with events := rest } := by
  induction is generalizing s with
  | nil => rfl
  | cons i is ih =>
    obtain ⟨⟨he, hw⟩, his⟩ := List.forall_mem_cons.1 h
    have hstep : core.step ({ s with events := (i :: is).map wordOf ++ rest } : State) =
        supplyAfter (is.map wordOf ++ rest) (exec i s) := by
      rw [← exec_with_events i he]
      exact step_of_decode { s with events := (i :: is).map wordOf ++ rest } (wordOf i) (is.map wordOf ++ rest) i rfl
        (decodeEvent_wordOf i hw he)
    simp only [List.length_cons, Host.Core.run, hstep, execAll, exec_with_events i he s rest]
    cases exec i s with
    | next t => exact ih t his
    | fault r => rfl
    | refused r => rfl

/-- Settles O8, by induction on the operations: each step runs the operation its word names, whatever is supplied after
it. -/
theorem runOfSuppliedWordsIsExecAll : Obligations.RunOfSuppliedWordsIsExecAll := run_supplied_words

/-! ### Every operation keeps the invariants (R23, R24, R27, R51, R111) -/

/-- R230: the reset state of a valid block meets the invariants. -/
theorem resetWith_inv (c : Config) (hc : c.Valid) : (State.resetWith c).Inv where
  cfgValid := hc
  ibForm := rfl
  ibWithin := rfl
  levelBound := Nat.zero_le _
  wqBound := Nat.zero_le _
  wqEmpty := fun _ => rfl
  oneOfArmedPending := rfl
  alarmAhead := fun _ => hc.2.2.symm
  cursorBeforeEnd := nofun

/-- R130: the parser step keeps the invariants; R27's is the only one about what it writes. -/
theorem parseByte_inv (b : Byte) (s : State) (hs : s.Inv) : (parseByte b s).Inv := by
  constructor
  case cursorBeforeEnd => exact parseByte_cursor b s hs.cursorBeforeEnd
  all_goals simp only [parseByte_cfg, parseByte_ib, parseByte_level, parseByte_wq, parseByte_tph, parseByte_armed,
    parseByte_pending, parseByte_count, parseByte_alarm]
  · exact hs.cfgValid
  · exact hs.ibForm
  · exact hs.ibWithin
  · exact hs.levelBound
  · exact hs.wqBound
  · exact hs.wqEmpty
  · exact hs.oneOfArmedPending
  · exact hs.alarmAhead

/-- R110, R111: the timer disarms at the alarm and stays before it otherwise. -/
theorem timerTick_inv (s : State) (hs : s.Inv) : (timerTick s).Inv := by
  rcases timerTick_cases s with ⟨_, _, e⟩ | ⟨hno, e⟩ <;> rw [e]
  · exact { hs with oneOfArmedPending := rfl, alarmAhead := nofun }
  · exact { hs with alarmAhead := fun (harmed : s.armed = true) => hno.resolve_left (by simp [harmed]) }

/-- R112: the alarm is rearmed a whole period after COUNT, which is not 0. -/
theorem acknowledgeTick_inv (s : State) (hs : s.Inv) (ht : s.tph = .idle) : (acknowledgeTick s).Inv :=
  { hs with
    wqEmpty := fun _ => hs.wqEmpty (by rw [ht]; nofun)
    oneOfArmedPending := rfl
    alarmAhead := fun _ h => hs.cfgValid.2.2 (by simpa using h) }

/-- Every operation, and every parser or type class, keeps the invariants. -/
theorem exec_inv (i : Instr) (s t : State) (hs : s.Inv) (h : exec i s = .next t) : t.Inv := by
  rcases exec_cases i s t h with ⟨b, _, _, hcap, rfl⟩ | ⟨b, _, hlevel, rfl⟩ | ⟨_, rfl⟩ | ⟨_, _, hidle, rfl⟩ |
    ⟨_, _, hlevel, rfl⟩ | ⟨b, rest, _, hparsing, hq, rfl⟩ | ⟨_, _, hq, rfl⟩ | ⟨_, _, _, rfl⟩ | ⟨off, data, _, _, rfl⟩ |
    ⟨_, rfl⟩ | ⟨b, _, _, _, rfl⟩
  · exact { hs with
      ibForm := wf_write _ _ _ hs.ibForm
      ibWithin := within_write _ _ _ _ hs.ibWithin hcap
      levelBound := hcap }
  · exact { hs with
      ibForm := wf_write _ _ _ hs.ibForm
      ibWithin := within_write _ _ _ _ hs.ibWithin hlevel
      levelBound := hlevel }
  · exact timerTick_inv s hs
  · exact acknowledgeTick_inv s hs hidle
  · exact { hs with
      levelBound := Nat.zero_le _
      wqBound := by simpa using hlevel
      wqEmpty := fun hne => absurd rfl hne }
  · have hlen : rest.length + 1 ≤ s.cfg.intakeCap := by simpa [hq] using hs.wqBound
    exact parseByte_inv b _ { hs with
      wqBound := Nat.le_of_succ_le hlen
      wqEmpty := fun hne => absurd hparsing hne }
  · exact { hs with wqEmpty := fun _ => hq }
  · exact { hs with }
  · rw [regWrite_frame]
    exact { hs with }
  · exact { resetWith_inv s.cfg hs.cfgValid with }
  · exact parseByte_inv b s hs

/-! ### The bytes in flight (R62, R101, R104, R241) -/

/-- R62: the bytes in flight are read from WQ, IB and LEVEL alone. -/
theorem inFlight_congr (s t : State) (hq : t.wq = s.wq) (hm : t.ib = s.ib) (hl : t.level = s.level) :
    inFlight t = inFlight s := by
  rw [inFlight, inFlight, hq, intakeHeld_congr s t hl fun _ _ => by rw [hm]]

/-- R100, R101: RXB puts its byte behind those in flight; an overflow first drops what IB held. -/
theorem exec_rxb_inFlight (b : Byte) (s t : State) (hw : Memory.wf s.ib = true) (h : exec (.rxb b) s = .next t) :
    inFlight t = (if s.level = s.cfg.intakeCap then s.wq else inFlight s) ++ [b] := by
  rcases (exec_rxb_next b s t).1 h with ⟨hfull, _, rfl⟩ | ⟨hroom, rfl⟩
  · rw [if_pos hfull, inFlight, intakeHeld_write s _ 0 b hw rfl rfl]
    rfl
  · rw [if_neg (Nat.ne_of_lt hroom), inFlight, intakeHeld_write s _ s.level b hw rfl rfl, ← List.append_assoc]
    rfl

/-- R113: in DUE, where WQ is empty, DSNAP moves the bytes in flight from IB to WQ. -/
theorem exec_dsnap_inFlight (s t : State) (hq : s.tph ≠ .parsing → s.wq = []) (h : exec .dsnap s = .next t) :
    inFlight t = inFlight s := by
  obtain ⟨hdue, _, rfl⟩ := (exec_dsnap_next s t).1 h
  rw [inFlight, inFlight, hq (by rw [hdue]; nofun), List.nil_append]
  exact List.append_nil _

/-- R114: PSTEP takes the oldest byte in flight. -/
theorem exec_pstep_inFlight (s t : State) (h : exec .pstep s = .next t) :
    ∃ b, s.wq.head? = some b ∧ inFlight s = b :: inFlight t := by
  obtain ⟨_, b, rest, hq, rfl⟩ := (exec_pstep_next s t).1 h
  have hrest : inFlight (parseByte b { s with wq := rest }) = inFlight { s with wq := rest } :=
    inFlight_congr _ _ (parseByte_wq ..) (parseByte_ib ..) (parseByte_level ..)
  refine ⟨b, by rw [hq]; rfl, ?_⟩
  rw [hrest, inFlight, hq]
  rfl

/-- R104, R241: no other event operation but RST changes the bytes in flight. -/
theorem exec_inFlight_of_not_end (i : Instr) (s t : State) (hs : s.Inv) (he : i.isEvent = true) (hrst : i ≠ .rst)
    (hrxb : ∀ b, i ≠ .rxb b) (hpstep : i ≠ .pstep) (h : exec i s = .next t) : inFlight t = inFlight s := by
  cases i with
  | rxb b => exact absurd rfl (hrxb b)
  | pstep => exact absurd rfl hpstep
  | rst => exact absurd rfl hrst
  | dsnap => exact exec_dsnap_inFlight s t hs.wqEmpty h
  | tinc =>
    obtain rfl : t = timerTick s := (next_eq_next _ _).1 h
    rw [timerTick_frame]
    rfl
  | tack =>
    obtain ⟨_, _, rfl⟩ := (exec_tack_next s t).1 h
    rfl
  | dend =>
    obtain ⟨_, _, rfl⟩ := (exec_dend_next s t).1 h
    rfl
  | brd off =>
    obtain ⟨_, rfl⟩ := (exec_brd_next off s t).1 h
    rfl
  | bwr off data =>
    obtain ⟨_, rfl⟩ := (exec_bwr_next off data s t).1 h
    rw [regWrite_frame]
    rfl
  | syncHit | syncMiss | lenZero | len | body | typeAccept | typeOther => cases he

/-- Settles O58: RXB and PSTEP act at the two ends; the others leave the bytes in flight as they are. -/
theorem bytesInFlightAreConserved : Obligations.BytesInFlightAreConserved := by
  refine fun i s t hs he hrst h => ⟨?_, ?_, fun hrxb hpstep => ?_⟩
  · rintro b rfl
    exact exec_rxb_inFlight b s t hs.ibForm h
  · rintro rfl
    exact exec_pstep_inFlight s t h
  · exact exec_inFlight_of_not_end i s t hs he hrst hrxb hpstep h

/-! ### The bytes the parser sees over a run (R62, R100, R101, R186) -/

/-- R101: an overflow drops the bytes IB held, which came last. -/
theorem kept_rxb_of_full (b : Byte) (s : State) (p : List Byte) (h : s.level = s.cfg.intakeCap) :
    kept (.rxb b) s (p ++ inFlight s) = p ++ s.wq ++ [b] := by
  rw [kept, if_pos h, inFlight, ← List.append_assoc, take_before (p ++ s.wq) _ _ (intakeHeld_length s)]

theorem kept_rxb_of_room (b : Byte) (s : State) (bytes : List Byte) (h : s.level ≠ s.cfg.intakeCap) :
    kept (.rxb b) s bytes = bytes ++ [b] := by
  rw [kept, if_neg h]

/-- R186: RST drops the bytes in flight. -/
theorem kept_rst (s : State) (p : List Byte) : kept .rst s (p ++ inFlight s) = p := take_before p _ _ rfl

/-- R62: only RXB and RST add or discard bytes. -/
theorem kept_of_not_rxb_rst (i : Instr) (s : State) (bytes : List Byte) (hrxb : ∀ b, i ≠ .rxb b) (hrst : i ≠ .rst) :
    kept i s bytes = bytes := by
  cases i with
  | rxb b => exact absurd rfl (hrxb b)
  | rst => exact absurd rfl hrst
  | _ => rfl

theorem received_cons (i : Instr) (is : List Instr) : received (i :: is) = received [i] ++ received is := by
  cases i <;> rfl

theorem received_of_not_rxb (i : Instr) (hrxb : ∀ b, i ≠ .rxb b) : received [i] = [] := by
  cases i with
  | rxb b => exact absurd rfl (hrxb b)
  | _ => rfl

/-- R62: with the bytes `p` parsed before it, one operation keeps of the bytes that came in those parsed, the one a PSTEP
takes, and those then in flight. -/
theorem kept_eq_parsed_inFlight (i : Instr) (s t : State) (hs : s.Inv) (he : i.isEvent = true)
    (h : exec i s = .next t) (p : List Byte) :
    kept i s (p ++ inFlight s) = p ++ (if i = .pstep then s.wq.head?.toList else []) ++ inFlight t := by
  by_cases hrxb : ∃ b, i = .rxb b
  · obtain ⟨b, rfl⟩ := hrxb
    rw [exec_rxb_inFlight b s t hs.ibForm h, if_neg (by nofun), List.append_nil, ← List.append_assoc]
    by_cases hfull : s.level = s.cfg.intakeCap
    · rw [if_pos hfull, kept_rxb_of_full b s p hfull]
    · rw [if_neg hfull, kept_rxb_of_room b s _ hfull]
  by_cases hrst : i = .rst
  · subst hrst
    obtain rfl : t = resetCore s := (next_eq_next _ _).1 h
    rw [kept_rst, if_neg (by nofun), List.append_nil]
    exact (List.append_nil p).symm
  have hrxb := not_exists.1 hrxb
  rw [kept_of_not_rxb_rst i s _ hrxb hrst]
  by_cases hpstep : i = .pstep
  · subst hpstep
    obtain ⟨b, hb, hflight⟩ := exec_pstep_inFlight s t h
    rw [if_pos rfl, hb, hflight, List.append_assoc]
    rfl
  · rw [if_neg hpstep, List.append_nil, exec_inFlight_of_not_end i s t hs he hrst hrxb hpstep h]

/-- R62: with the bytes `p` parsed before it, a run keeps those parsed before and in it, and those then in flight. -/
theorem survivors_eq_parsed_inFlight (is : List Instr) (s t : State) (hs : s.Inv) (he : ∀ i ∈ is, i.isEvent = true)
    (h : execAll is s = .next t) (p : List Byte) :
    survivors is s (p ++ inFlight s) = p ++ parsed is s ++ inFlight t := by
  induction is generalizing s p with
  | nil =>
    obtain rfl : t = s := (next_eq_next _ _).1 h
    rw [survivors, parsed, List.append_nil]
  | cons i is ih =>
    obtain ⟨hi, his⟩ := List.forall_mem_cons.1 he
    obtain ⟨u, hu, hrun⟩ := execAll_cons_next i is s t h
    rw [survivors_cons i is s u _ hu, parsed_cons i is s u hu, kept_eq_parsed_inFlight i s u hs hi hu,
      ih u (exec_inv i s u hs hu) his hrun, ← List.append_assoc p]

/-- R101: an operation but RST discards nothing, or it overflows the intake and OVF_CNT counts that. -/
theorem kept_all_or_overflow (i : Instr) (s t : State) (hi : i ≠ .rst) (h : exec i s = .next t) :
    (t.ovfCnt = s.ovfCnt ∧ ∀ before, kept i s before = before ++ received [i]) ∨ t.ovfCnt = s.ovfCnt + 1 := by
  by_cases hrxb : ∃ b, i = .rxb b
  · obtain ⟨b, rfl⟩ := hrxb
    rcases (exec_rxb_next b s t).1 h with ⟨_, _, rfl⟩ | ⟨hroom, rfl⟩
    · exact .inr rfl
    · exact .inl ⟨rfl, fun before => kept_rxb_of_room b s before (Nat.ne_of_lt hroom)⟩
  · have hrxb := not_exists.1 hrxb
    obtain ⟨-, -, hcnt | ⟨hcnt, -, -⟩⟩ := countersAdvanceWithTheirFlags i s t hi h
    · refine .inl ⟨hcnt, fun before => ?_⟩
      rw [kept_of_not_rxb_rst i s before hrxb hi, received_of_not_rxb i hrxb, List.append_nil]
    · exact .inr hcnt

/-- R101: over a run without RST, OVF_CNT counts the overflows modulo 2^32; with none of them nothing is discarded. -/
theorem overflows_of_run (is : List Instr) (s t : State) (hrst : .rst ∉ is) (h : execAll is s = .next t) :
    ∃ n ≤ is.length, t.ovfCnt = s.ovfCnt + BitVec.ofNat 32 n ∧
      (n = 0 → ∀ before, survivors is s before = before ++ received is) := by
  induction is generalizing s with
  | nil =>
    obtain rfl : t = s := (next_eq_next _ _).1 h
    exact ⟨0, Nat.le_refl 0, by simp, fun _ before => (List.append_nil before).symm⟩
  | cons i is ih =>
    obtain ⟨u, hu, hrun⟩ := execAll_cons_next i is s t h
    obtain ⟨hi, his⟩ := List.ne_and_not_mem_of_not_mem_cons hrst
    obtain ⟨n, hn, hcnt, hkeep⟩ := ih u his hrun
    rcases kept_all_or_overflow i s u hi.symm hu with ⟨hsame, hkept⟩ | hone
    · refine ⟨n, Nat.le_succ_of_le hn, by rw [hcnt, hsame], fun hz before => ?_⟩
      rw [survivors_cons i is s u before hu, hkeep hz, hkept, List.append_assoc, ← received_cons]
    · exact ⟨n + 1, Nat.succ_le_succ hn, by rw [hcnt, hone, count_succ], nofun⟩

/-- Settles O59: the run lemma with nothing parsed before; and fewer than 2^32 overflows that leave OVF_CNT as it was are
none. -/
theorem parserSeesTheReceivedBytesInOrder : Obligations.ParserSeesTheReceivedBytesInOrder := by
  intro is s t hs he h
  have hall : parsed is s ++ inFlight t = survivors is s (inFlight s) :=
    (survivors_eq_parsed_inFlight is s t hs he h []).symm
  refine ⟨hall, fun hlen hrst hovf => ?_⟩
  obtain ⟨n, hn, hcnt, hkeep⟩ := overflows_of_run is s t hrst h
  have hzero : n = 0 := by
    have hmod : BitVec.ofNat 32 n = 0#32 := by simpa [hcnt] using hovf
    have hmod := congrArg BitVec.toNat hmod
    simp only [BitVec.toNat_ofNat] at hmod
    omega
  rw [hall, hkeep hzero]

end Sys2Proof.Machine

/-! PROOFS. The statements about the encodings (30_encoding.md R72, R76 to R84): decode and encode are inverse to each
other, a word decodes exactly when one row of the opcode table matches it, and a reserved word is refused; the two
pseudo-operations WAIT and DRAIN; the parser's classes by first match; and the window in the reset state. -/

namespace Sys2Proof

/-! ### Decode after encode (R77, R78, R82, R72) -/

/-- R77, R78: the encoding of an event operation is its event word. -/
theorem encode_of_isEvent (i : Instr) (he : i.isEvent = true) : encode i = .event (wordOf i) := by
  cases i with
  | rxb | tinc | tack | dsnap | pstep | dend | brd | bwr | rst => rfl
  | syncHit | syncMiss | lenZero | len | body | typeAccept | typeOther => cases he

/-- R82, R72: the encoding of a well-formed class decodes to it, since no earlier row takes its operand. -/
theorem decode_encode_of_class (i : Instr) (hw : i.wellFormed = true) (he : i.isEvent = false) :
    decode (encode i) = .ok i := by
  cases i with
  | rxb | tinc | tack | dsnap | pstep | dend | brd | bwr | rst => cases he
  | syncHit | lenZero | typeAccept => rfl
  | syncMiss b =>
    have hb : b ≠ syncByte := by simpa [Instr.wellFormed] using hw
    simp [decode, encode, decodePin_pinWord, hb]
  | len b =>
    have hb : b ≠ 0#8 := by simpa [Instr.wellFormed] using hw
    simp [decode, encode, decodePin_pinWord, hb]
  | body b => simp [decode, encode, decodePin_pinWord]
  | typeOther t =>
    have ht : t ≠ acceptType := by simpa [Instr.wellFormed] using hw
    rw [encode, decode, decodeType_eq, if_neg ht]

/-- Settles O1: an event operation is read back from the fields of its word, a class from its row, which is the first
to match by well-formedness. -/
theorem decodeOfEncodeIsTheInstruction : Obligations.DecodeOfEncodeIsTheInstruction := by
  intro i hw
  cases he : i.isEvent with
  | true => rw [encode_of_isEvent i he]; exact decodeEvent_wordOf i hw he
  | false => exact decode_encode_of_class i hw he

/-! ### Encode after decode -/

/-- R77, formats EB and EA: a word with bits [27:8] zero is its opcode and its byte. -/
theorem eq_eventWord_of_byteOperand (w : Word) (h : w.extractLsb' 8 20 = 0#20) :
    eventWord (eventOpc w) 0 (eventByte w) = w := by
  obtain ⟨hz, hd⟩ := zero_of_byteOperand w h
  conv_rhs => rw [eq_eventWord w hz, hd]
  rfl

/-- R77, format EN: a word with bits [27:0] zero is its opcode. -/
theorem eq_eventWord_of_noOperand (w : Word) (h : w.extractLsb' 0 28 = 0#28) : eventWord (eventOpc w) 0 0 = w := by
  obtain ⟨hz, hd, hb⟩ := zero_of_noOperand w h
  conv_rhs => rw [eq_eventWord w hz, hd, hb]
  rfl

/-- R76, R77: how an event word is decoded, by the format of its opcode: EB, EN, EA, EW, or a reserved opcode. -/
theorem decodeEvent_cases (w : Word) :
    (eventOpc w = 1 ∧ decodeEvent w = byteOperand w (.rxb (eventByte w))) ∨
    ((eventOpc w ≠ 7 ∧ eventOpc w ≠ 8) ∧ ∃ i, encode i = .event (eventWord (eventOpc w) 0 0) ∧
      i.wellFormed = true ∧ decodeEvent w = noOperand w i) ∨
    (eventOpc w = 7 ∧ decodeEvent w = alignedOffset w (byteOperand w (.brd (eventByte w)))) ∨
    (eventOpc w = 8 ∧ decodeEvent w = alignedOffset w (writeOperand w (.bwr (eventByte w) (eventData w)))) ∨
    ((eventOpc w ≠ 7 ∧ eventOpc w ≠ 8) ∧ decodeEvent w = .error .reservedOpcode) := by
  unfold decodeEvent
  generalize eventOpc w = o
  split_ifs with h1 h2 h3 h4 h5 h6 h7 h8 h15
  · exact .inl ⟨h1, rfl⟩
  · exact .inr (.inl ⟨by rw [h2]; decide, _, by rw [h2]; rfl, rfl, rfl⟩)
  · exact .inr (.inl ⟨by rw [h3]; decide, _, by rw [h3]; rfl, rfl, rfl⟩)
  · exact .inr (.inl ⟨by rw [h4]; decide, _, by rw [h4]; rfl, rfl, rfl⟩)
  · exact .inr (.inl ⟨by rw [h5]; decide, _, by rw [h5]; rfl, rfl, rfl⟩)
  · exact .inr (.inl ⟨by rw [h6]; decide, _, by rw [h6]; rfl, rfl, rfl⟩)
  · exact .inr (.inr (.inl ⟨h7, rfl⟩))
  · exact .inr (.inr (.inr (.inl ⟨h8, rfl⟩)))
  · exact .inr (.inl ⟨by rw [h15]; decide, _, by rw [h15]; rfl, rfl, rfl⟩)
  · exact .inr (.inr (.inr (.inr ⟨⟨h7, h8⟩, rfl⟩)))

/-- R77, R78: an event word that decodes is the encoding of its operation. -/
theorem encode_of_decodeEvent (w : Word) (i : Instr) (h : decodeEvent w = .ok i) :
    encode i = .event w ∧ i.wellFormed = true := by
  rcases decodeEvent_cases w with ⟨ho, e⟩ | ⟨_, j, hj, hw, e⟩ | ⟨ho, e⟩ | ⟨ho, e⟩ | ⟨_, e⟩ <;> rw [e] at h
  · obtain ⟨hz, rfl⟩ := byteOperand_ok _ _ _ h
    exact ⟨congrArg Code.event (ho ▸ eq_eventWord_of_byteOperand w hz), rfl⟩
  · obtain ⟨hz, rfl⟩ := noOperand_ok _ _ _ h
    exact ⟨by rw [hj, eq_eventWord_of_noOperand w hz], hw⟩
  · obtain ⟨ha, h⟩ := alignedOffset_ok _ _ _ h
    obtain ⟨hz, rfl⟩ := byteOperand_ok _ _ _ h
    exact ⟨congrArg Code.event (ho ▸ eq_eventWord_of_byteOperand w hz), by simpa [Instr.wellFormed] using ha⟩
  · obtain ⟨ha, h⟩ := alignedOffset_ok _ _ _ h
    obtain ⟨hz, rfl⟩ := writeOperand_ok _ _ _ h
    exact ⟨congrArg Code.event (ho ▸ (eq_eventWord w hz).symm), by simpa [Instr.wellFormed] using ha⟩
  · cases h

/-- R82: a parser input word is its two fields. -/
theorem pinWord_fields (p : BitVec 10) : pinWord (p.extractLsb' 8 2) (p.extractLsb' 0 8) = p := by
  apply BitVec.eq_of_getLsbD_eq
  intro i hi
  rw [getLsbD_pinWord _ _ _ hi]
  split
  · next hlt => simp [hlt]
  · next hge => simp [show i - 8 < 2 by omega, show 8 + (i - 8) = i by omega]

/-- R82: a parser input word that decodes is the encoding of its class. -/
theorem encode_of_decodePin (p : BitVec 10) (i : Instr) (h : decodePin p = .ok i) :
    encode i = .pin p ∧ i.wellFormed = true := by
  rw [← pinWord_fields p] at h ⊢
  generalize p.extractLsb' 8 2 = c at h ⊢
  generalize p.extractLsb' 0 8 = b at h ⊢
  rw [decodePin_pinWord] at h
  split_ifs at h with hhit hmiss hzero hlen hbody
  · cases h; rw [hhit.1, hhit.2]; exact ⟨rfl, rfl⟩
  · cases h; rw [hmiss]; exact ⟨rfl, bne_iff_ne.2 fun hb => hhit ⟨hmiss, hb⟩⟩
  · cases h; rw [hzero.1, hzero.2]; exact ⟨rfl, rfl⟩
  · cases h; rw [hlen]; exact ⟨rfl, bne_iff_ne.2 fun hb => hzero ⟨hlen, hb⟩⟩
  · cases h; rw [hbody]; exact ⟨rfl, rfl⟩

/-- R72: a type byte is the encoding of the class it decodes to. -/
theorem encode_of_decodeType (t : Byte) (i : Instr) (h : decodeType t = .ok i) :
    encode i = .typeByte t ∧ i.wellFormed = true := by
  rw [decodeType_eq] at h
  cases h
  split
  · next ht => rw [ht]; exact ⟨rfl, rfl⟩
  · next ht => exact ⟨rfl, bne_iff_ne.2 ht⟩

/-- Settles O2: in each of the three tables the fields that were read spell the whole word. -/
theorem encodeOfDecodeIsTheWord : Obligations.EncodeOfDecodeIsTheWord
  | .event w, i, h => encode_of_decodeEvent w i h
  | .pin p, i, h => encode_of_decodePin p i h
  | .typeByte t, i, h => encode_of_decodeType t i h

/-! ### The rows of the opcode table (R78, R79) -/

/-- R78: a word that matches a row decodes to an operation of that row. -/
theorem decodeEvent_of_row (w : Word) (r : EventRow) (hr : r ∈ eventRows) (h : w &&& r.mask = r.value) :
    ∃ i, decodeEvent w = .ok i ∧ r.mnemonic = i.mnemonic := by
  simp only [eventRows, List.cons_append, List.nil_append, List.mem_cons, List.not_mem_nil, or_false] at hr
  rcases hr with rfl | rfl | rfl | rfl | rfl | rfl | rfl | rfl | rfl
  · obtain ⟨ho, hz⟩ := (row_RXB w).1 h
    exact ⟨.rxb (eventByte w), by simp [decodeEvent, byteOperand, ho, hz], rfl⟩
  · obtain ⟨ho, hz⟩ := (row_TINC w).1 h
    exact ⟨.tinc, by simp [decodeEvent, noOperand, ho, hz], rfl⟩
  · obtain ⟨ho, hz⟩ := (row_TACK w).1 h
    exact ⟨.tack, by simp [decodeEvent, noOperand, ho, hz], rfl⟩
  · obtain ⟨ho, hz⟩ := (row_DSNAP w).1 h
    exact ⟨.dsnap, by simp [decodeEvent, noOperand, ho, hz], rfl⟩
  · obtain ⟨ho, hz⟩ := (row_PSTEP w).1 h
    exact ⟨.pstep, by simp [decodeEvent, noOperand, ho, hz], rfl⟩
  · obtain ⟨ho, hz⟩ := (row_DEND w).1 h
    exact ⟨.dend, by simp [decodeEvent, noOperand, ho, hz], rfl⟩
  · obtain ⟨ho, hz, ha⟩ := (row_BRD w).1 h
    exact ⟨.brd (eventByte w), by simp [decodeEvent, alignedOffset, byteOperand, ho, hz, ha], rfl⟩
  · obtain ⟨ho, hz, ha⟩ := (row_BWR w).1 h
    exact ⟨.bwr (eventByte w) (eventData w), by simp [decodeEvent, alignedOffset, writeOperand, ho, hz, ha], rfl⟩
  · obtain ⟨ho, hz⟩ := (row_RST w).1 h
    exact ⟨.rst, by simp [decodeEvent, noOperand, ho, hz], rfl⟩

/-- R78, R82, R72: the encoding of every well-formed instruction selects the row of its mnemonic. -/
theorem encode_selectsRow (i : Instr) : Laws.RowMatch.Statement i := by
  cases i with
  | rxb b => exact Laws.RowMatch.rxb b
  | tinc => exact Laws.RowMatch.tinc
  | tack => exact Laws.RowMatch.tack
  | dsnap => exact Laws.RowMatch.dsnap
  | pstep => exact Laws.RowMatch.pstep
  | dend => exact Laws.RowMatch.dend
  | brd off => exact Laws.RowMatch.brd off
  | bwr off data => exact Laws.RowMatch.bwr off data
  | rst => exact Laws.RowMatch.rst
  | syncHit => exact Laws.RowMatch.syncHit
  | syncMiss b => exact Laws.RowMatch.syncMiss b
  | lenZero => exact Laws.RowMatch.lenZero
  | len b => exact Laws.RowMatch.len b
  | body b => exact Laws.RowMatch.body b
  | typeAccept => exact Laws.RowMatch.typeAccept
  | typeOther t => exact Laws.RowMatch.typeOther t

/-- R78: a word that decodes matches the row of its operation's mnemonic. -/
theorem row_of_decodeEvent (w : Word) (i : Instr) (h : decodeEvent w = .ok i) :
    ∃ r ∈ eventRows, r.mnemonic = i.mnemonic ∧ w &&& r.mask = r.value := by
  obtain ⟨he, hw⟩ := encode_of_decodeEvent w i h
  have hrow := encode_selectsRow i hw
  rw [he] at hrow
  exact hrow

/-- R78: no two rows of the table bear the same mnemonic. -/
theorem eventRows_mnemonic_inj : ∀ r ∈ eventRows, ∀ r' ∈ eventRows, r'.mnemonic = r.mnemonic → r' = r := by
  decide

/-- Settles O3: a matching row gives the decoded operation and a decoded operation gives a matching row; two rows that
match one word bear the mnemonic of the one operation it decodes to. -/
theorem eventWordSelectsOneRow : Obligations.EventWordSelectsOneRow := by
  intro w
  cases hd : decodeEvent w with
  | ok i =>
    obtain ⟨r, hr, hm, hsel⟩ := row_of_decodeEvent w i hd
    refine .inl ⟨i, r, rfl, hr, hsel, hm, fun r' hr' hsel' => ?_⟩
    obtain ⟨j, hj, hm'⟩ := decodeEvent_of_row w r' hr' hsel'
    rw [hd] at hj
    cases hj
    exact eventRows_mnemonic_inj r hr r' hr' (hm'.trans hm.symm)
  | error e =>
    refine .inr ⟨⟨e, rfl⟩, fun r hr hsel => ?_⟩
    obtain ⟨i, hi, _⟩ := decodeEvent_of_row w r hr hsel
    rw [hd] at hi
    cases hi

end Sys2Proof

namespace Sys2Proof.Machine

/-! ### Reserved words (R79, R56) -/

/-- R79: a must-be-zero field, of whichever format, is refused for being set. -/
theorem eq_nonzeroField_of_error (c : Prop) [Decidable c] (i : Instr) (e : DecodeError)
    (h : (if c then .ok i else .error .nonzeroField : Except DecodeError Instr) = .error e) : e = .nonzeroField := by
  split at h <;> cases h
  rfl

/-- R77, R79: off[1:0] = 00 in a bus access word says that its offset is a multiple of 4. -/
theorem lowBits_eq_zero_iff_byte (w : Word) : w.extractLsb' 0 2 = 0#2 ↔ (eventByte w).toNat % 4 = 0 := by
  rw [lowBits_eq_byte, lowBits_eq_zero]

/-- R56, R79: a bus access word is refused as misaligned when its offset is; else its other fields decide. -/
theorem alignedOffset_error (w : Word) (r : Except DecodeError Instr) (e : DecodeError)
    (h : alignedOffset w r = .error e) (hr : r = .error e → e = .nonzeroField) :
    refusalOf e = if (eventByte w).toNat % 4 = 0 then .reservedEncoding else .misaligned := by
  unfold alignedOffset at h
  split at h
  · next ha =>
    rw [hr h, if_pos ((lowBits_eq_zero_iff_byte w).1 ha)]
    rfl
  · next ha =>
    cases h
    rw [if_neg (mt (lowBits_eq_zero_iff_byte w).2 ha)]
    rfl

/-- R79, R56: under which name a word of no row is refused. -/
theorem refusalOf_decodeEvent (w : Word) (e : DecodeError) (h : decodeEvent w = .error e) :
    refusalOf e = if (eventOpc w = 7 ∨ eventOpc w = 8) ∧ (eventByte w).toNat % 4 ≠ 0 then .misaligned
      else .reservedEncoding := by
  rcases decodeEvent_cases w with ⟨ho, d⟩ | ⟨⟨h7, h8⟩, i, _, _, d⟩ | ⟨ho, d⟩ | ⟨ho, d⟩ | ⟨⟨h7, h8⟩, d⟩ <;> rw [d] at h
  · rw [eq_nonzeroField_of_error _ _ _ h, ho]
    rfl
  · rw [eq_nonzeroField_of_error _ _ _ h, if_neg fun hc => hc.1.elim h7 h8]
    rfl
  · rw [alignedOffset_error _ _ _ h (eq_nonzeroField_of_error _ _ _), ho]
    simp [ite_not]
  · rw [alignedOffset_error _ _ _ h (eq_nonzeroField_of_error _ _ _), ho]
    simp [ite_not]
  · cases h
    rw [if_neg fun hc => hc.1.elim h7 h8]
    rfl

/-- R79: the step on a supplied word of no row. -/
theorem step_of_no_row (s : State) (w : Word) (rest : List Word) (hs : s.events = w :: rest)
    (hno : ∀ r ∈ eventRows, w &&& r.mask ≠ r.value) :
    step s = .refused (if (eventOpc w = 7 ∨ eventOpc w = 8) ∧ (eventByte w).toNat % 4 ≠ 0 then .misaligned
      else .reservedEncoding) := by
  rw [step_cons s w rest hs]
  cases hd : decodeEvent w with
  | ok i =>
    obtain ⟨r, hr, _, hsel⟩ := row_of_decodeEvent w i hd
    exact absurd hsel (hno r hr)
  | error e => exact congrArg Host.Outcome.refused (refusalOf_decodeEvent w e hd)

/-- Settles O4: only the opcodes of BRD and BWR, 7 and 8, are refused under R56's name. -/
theorem reservedWordIsRefused : Obligations.ReservedWordIsRefused := by
  intro s w rest hs hno
  rw [step_of_no_row s w rest hs hno]
  refine ⟨fun ho => ?_, fun ho => ?_, fun ho => ?_⟩
  · rw [if_neg]
    rintro ⟨h | h, _⟩ <;> simp [h] at ho
  · rw [if_neg]
    rintro ⟨h | h, _⟩ <;> simp [h] at ho
  · simp only [ho, true_and, ne_eq, ite_not]

end Sys2Proof.Machine

namespace Sys2Proof.Machine

/-- Settles O5, by evaluating the decoder on the nine words. -/
theorem sampleWordsDecode : Obligations.SampleWordsDecode :=
  ⟨rfl, rfl, rfl, rfl, rfl, rfl, rfl, rfl, rfl⟩

/-! ### The pseudo-operations WAIT and DRAIN (R84) -/

/-- R110: while no count meets the alarm of an armed timer, only COUNT advances. -/
theorem advOps_run (n : Nat) (s : State)
    (h : ∀ k, 1 ≤ k → k ≤ n → s.armed = true → s.count + BitVec.ofNat 32 k ≠ s.alarm) :
    execAll (advOps n) s = .next { s with count := s.count + BitVec.ofNat 32 n } := by
  induction n generalizing s with
  | zero => simp [advOps, execAll]
  | succ n ih =>
    have htick : timerTick s = { s with count := s.count + 1 } := by
      rcases timerTick_cases s with ⟨harmed, hmatch, _⟩ | ⟨_, e⟩
      · exact absurd hmatch (h 1 (Nat.le_refl 1) (Nat.le_add_left 1 n) harmed)
      · exact e
    have hcons : advOps (n + 1) = .tinc :: advOps n := List.replicate_succ
    rw [hcons, execAll_cons _ _ _ _ (exec_tinc s), htick, ih]
    · rw [count_succ]
    · intro k _ hk harmed
      rw [count_succ]
      exact h (k + 1) (Nat.le_add_left 1 k) (Nat.succ_le_succ hk) harmed

/-- R84: the counts of WAIT lead from COUNT to ALARM. -/
theorem count_add_waitCount (s : State) : s.count + BitVec.ofNat 32 (waitCount s) = s.alarm := by
  rw [waitCount, BitVec.ofNat_toNat, BitVec.setWidth_eq, BitVec.add_comm, BitVec.sub_add_cancel]

/-- R84: fewer counts than WAIT takes do not reach ALARM. -/
theorem count_add_ne_alarm (s : State) (k : Nat) (hk : k < waitCount s) : s.count + BitVec.ofNat 32 k ≠ s.alarm := by
  intro h
  have hlt := (s.alarm - s.count).isLt
  have hw : waitCount s = (BitVec.ofNat 32 k).toNat := by
    rw [waitCount, ← h, BitVec.add_comm, BitVec.add_sub_cancel]
  rw [BitVec.toNat_ofNat] at hw
  have := Nat.mod_le k (2 ^ 32)
  omega

/-- R110: an armed count that meets the alarm sets PENDING. -/
theorem timerTick_of_match (s : State) (harmed : s.armed = true) (h : s.count + 1 = s.alarm) :
    timerTick s = { s with count := s.alarm, pending := true, armed := false } := by
  rw [timerTick, if_pos ⟨harmed, h⟩, h]

/-- R84, R110: while armed, the counts of WAIT but the last advance COUNT alone. -/
theorem wait_run_before_alarm (s : State) (n : Nat) (hn : n < waitCount s) :
    execAll (advOps n) s = .next { s with count := s.count + BitVec.ofNat 32 n } :=
  advOps_run n s fun k _ hk _ => count_add_ne_alarm s k (Nat.lt_of_le_of_lt hk hn)

/-- R84, R110: while armed and before the alarm, the last count of WAIT meets the alarm. -/
theorem wait_run (s : State) (harmed : s.armed = true) (hpos : 1 ≤ waitCount s) :
    execAll (advOps (waitCount s)) s = .next { s with count := s.alarm, pending := true, armed := false } := by
  obtain ⟨n, hn⟩ : ∃ n, waitCount s = n + 1 := ⟨_, (Nat.sub_add_cancel hpos).symm⟩
  have hreach : s.count + BitVec.ofNat 32 n + 1 = s.alarm := by
    rw [← count_add_waitCount s, hn, BitVec.ofNat_add, BitVec.add_assoc]
    rfl
  rw [hn, advOps_add, execAll_append_next]
  refine ⟨_, wait_run_before_alarm s n (by omega), ?_⟩
  exact (execAll_cons .tinc [] _ _ (exec_tinc _)).trans (congrArg Host.Outcome.next (timerTick_of_match _ harmed hreach))

/-- Settles O16: WAIT is `ALARM - COUNT` TINCs, of which only the last meets the alarm. -/
theorem waitEndsAtTheAlarm : Obligations.WaitEndsAtTheAlarm := by
  intro s harmed hne
  have hpos : 1 ≤ waitCount s := by
    rw [Nat.one_le_iff_ne_zero]
    intro hz
    have h := count_add_waitCount s
    rw [hz] at h
    exact hne (by simpa using h)
  refine ⟨advOps (waitCount s), by simp [TraceOp.expand, harmed], by simpa [advOps] using hpos,
    fun i hi => List.eq_of_mem_replicate hi, wait_run s harmed hpos, fun n hn => ?_⟩
  have hn : n < waitCount s := by simpa [advOps] using hn
  rw [advOps, List.take_replicate, Nat.min_eq_left (Nat.le_of_lt hn)]
  exact wait_run_before_alarm s n hn

theorem parseBytes_ib (bs : List Byte) (s : State) : (parseBytes bs s).ib = s.ib := by
  rw [parseBytes_frame, withOuter_ib]

/-- Settles O25: the snapshot, a PSTEP for each held byte, and the end of the tick body. -/
theorem drainParsesTheHeldBytesInOrder : Obligations.DrainParsesTheHeldBytesInOrder := by
  intro s hdue hlevel
  have hsnap := (exec_dsnap_next s _).2 ⟨hdue, hlevel, rfl⟩
  have hparse := psteps_run (intakeHeld s) { s with wq := intakeHeld s, level := 0, tph := .parsing } rfl rfl
  rw [intakeHeld_length, parseBytes_with _ s s.ib 0 [] .parsing] at hparse
  rw [drainOps, execAll_cons _ _ _ _ hsnap, execAll_append_next]
  refine ⟨_, hparse, ?_⟩
  rw [execAll_cons _ _ _ _ ((exec_dend_next _ _).2 ⟨rfl, rfl, rfl⟩), ← parseBytes_ib (intakeHeld s) s]
  rfl

/-! ### The parser's classes by first match (R82, R72) -/

/-- R82: the class of a parser input word is the first row that matches it. -/
theorem decodePin_first_match (p : BitVec 10) :
    (decodePin p).toOption.map Instr.mnemonic = (pinRows.find? fun r => p &&& r.2.2 = r.2.1).map fun r => r.1 := by
  simp only [decodePin, pinRows, List.cons_append, List.nil_append, List.find?_cons, List.find?_nil]
  split_ifs <;> simp only [*, decide_true, decide_false] <;> rfl

/-- R72: the class of a type byte is the first row that matches it. -/
theorem decodeType_first_match (b : Byte) :
    (decodeType b).toOption.map Instr.mnemonic = (typeRows.find? fun r => b &&& r.2.2 = r.2.1).map fun r => r.1 := by
  simp only [decodeType, typeRows, List.find?_cons, List.find?_nil]
  have hother : b &&& 0x00 = 0x00 := BitVec.and_zero
  split_ifs <;> simp only [*, decide_true, decide_false] <;> rfl

/-- R25, R82: the state code 3 selects no row. -/
theorem decodePin_of_state_three (p : BitVec 10) (h : p.extractLsb' 8 2 = 3) : decodePin p = .error .noInputClass := by
  rw [← pinWord_fields p, h, decodePin_pinWord]
  simp

/-- Settles O27: both tables by first match, and a PSTEP is the parser's step on the head of WQ, which is the meaning of
the class that PSTATE and the head select. -/
theorem pstepIsItsInputClass : Obligations.PstepIsItsInputClass := by
  refine ⟨decodePin_first_match, decodeType_first_match, fun s b rest ht hq => ?_, decodePin_of_state_three⟩
  obtain ⟨i, hd, hx⟩ := exec_pinClass_eq_parseByte b { s with wq := rest }
  exact ⟨i, hd, (exec_pstep_cons s b rest ht hq).trans hx.symm⟩

/-! ### The type byte (R132, R139, R140) -/

/-- R132: what the body byte at CURSOR = 0 latches and captures. -/
theorem captured_at_zero (b : Byte) (s : State) (hc : s.cursor = 0) :
    captured b s = { s with ptype := b, pb := if b = acceptType then s.pb.setIfInBounds 0 b else s.pb } := by
  have hptype : (captured b s).ptype = b := (captured_ptype b s).trans (if_pos hc)
  rw [captured_eq, captured_pb_eq, hptype, hc]
  simp [payloadCap]

/-- R132: the type byte is captured, and with FLEN = 1 it also ends the frame. -/
theorem parseByte_at_zero (b : Byte) (s : State) (hp : s.pstate = .readPayload) (hc : s.cursor = 0) :
    parseByte b s =
      if s.flen = 1 then completeFrame { captured b s with cursor := 1, pstate := .awaitSync }
      else { captured b s with cursor := 1 } := by
  have hone : s.cursor + 1 = 1 := by rw [hc]; rfl
  rcases parseByte_cases b s with ⟨h, _⟩ | ⟨h, _⟩ | ⟨h, _⟩ | ⟨_, hmore, e⟩ | ⟨_, hend, e⟩
  · rw [hp] at h; cases h
  · rw [hp] at h; cases h
  · rw [hp] at h; cases h
  · rw [hone] at hmore e
    rw [if_neg (Ne.symm hmore), e]
  · rw [hone] at hend e
    rw [if_pos hend.symm, e]

/-- R139: TYPE_ACCEPT captures the type byte; a frame that ends there is shorter than 24, a length error. -/
theorem parseByte_acceptType (s : State) (hp : s.pstate = .readPayload) (hc : s.cursor = 0) :
    parseByte acceptType s = { s with
      ptype := acceptType, pb := s.pb.setIfInBounds 0 acceptType, cursor := 1
      pstate := if s.flen = 1 then .awaitSync else .readPayload
      lenErr := if s.flen = 1 then true else s.lenErr } := by
  rw [parseByte_at_zero _ s hp hc, captured_at_zero _ s hc, if_pos rfl]
  by_cases hf : s.flen = 1
  · have hlen : s.flen ≠ expectLen := by rw [hf]; decide
    rw [if_pos hf, if_pos hf, if_pos hf]
    exact (if_neg (fun h => h rfl)).trans (if_pos hlen)
  · rw [if_neg hf, if_neg hf, if_neg hf, ← hp]

/-- R140: another type is latched alone, and a frame that ends there records nothing. -/
theorem parseByte_otherType (b : Byte) (s : State) (hp : s.pstate = .readPayload) (hc : s.cursor = 0)
    (hb : b ≠ acceptType) :
    parseByte b s = { s with
      ptype := b, cursor := 1, pstate := if s.flen = 1 then .awaitSync else .readPayload } := by
  rw [parseByte_at_zero _ s hp hc, captured_at_zero _ s hc, if_neg hb]
  by_cases hf : s.flen = 1
  · rw [if_pos hf, if_pos hf]
    exact if_pos hb
  · rw [if_neg hf, if_neg hf, ← hp]

/-- Settles O32: each type class, and BODY on its byte, is the parser's step on the type byte. -/
theorem typeByteSelectsCapture : Obligations.TypeByteSelectsCapture := by
  intro s hp hc
  refine ⟨⟨parseByte acceptType s, (exec_typeAccept_next s _).2 ⟨hp, hc, rfl⟩, (exec_body_next _ s _).2 ⟨hp, rfl⟩, ?_⟩,
    fun b hb => ⟨parseByte b s, (exec_typeOther_next b s _).2 ⟨hp, hc, hb, rfl⟩, (exec_body_next _ s _).2 ⟨hp, rfl⟩, ?_⟩⟩
  · rw [parseByte_acceptType s hp hc]
    refine ⟨rfl, rfl, ?_, fun j hj => ?_, fun hf => ⟨if_pos hf, if_pos hf⟩, fun hf => ⟨if_neg hf, if_neg hf⟩, rfl⟩
    · simp [acceptType]
    · simp [hj.symm]
  · rw [parseByte_otherType b s hp hc hb]
    exact ⟨rfl, rfl, rfl, rfl⟩

/-! ### The window in the reset state (R80, R230) -/

/-- R80: the offsets of the registers whose reset value is not zero. -/
theorem registerAt_timerAlarm (off : Byte) : registerAt off = .timerAlarm ↔ off = 0x5C := by
  revert off; decide +kernel

theorem registerAt_timerStat (off : Byte) : registerAt off = .timerStat ↔ off = 0x60 := by
  revert off; decide +kernel

theorem registerAt_config0 (off : Byte) : registerAt off = .config0 ↔ off = 0x64 := by
  revert off; decide +kernel

theorem registerAt_config1 (off : Byte) : registerAt off = .config1 ↔ off = 0x68 := by
  revert off; decide +kernel

theorem registerAt_config2 (off : Byte) : registerAt off = .config2 ↔ off = 0x6C := by
  revert off; decide +kernel

/-- R41, R80: the value of each register at reset. -/
theorem registerValue_resetWith (c : Config) (r : Register) :
    registerValue (State.resetWith c) r =
      if r = .timerAlarm then c.tickPeriod else if r = .timerStat then 1 else if r = .config0 then 0x18D516C8
      else if r = .config1 then BitVec.ofNat 32 c.intakeCap else if r = .config2 then c.tickPeriod else 0 := by
  cases r with
  | ch k => simp [registerValue, State.resetWith, vector_getD]
  | payload j => simp [registerValue, State.resetWith, pbByte, vector_getD, leWord]
  | status => simp [registerValue, State.resetWith, statusWord, bitWord]
  | parser => simp [registerValue, State.resetWith, PState.code]
  | timerStat => simp [registerValue, State.resetWith, bitWord, TPhase.code]
  | _ => rfl

/-- Settles O50: a read of the register at each offset, by the five registers whose reset value is not zero. -/
theorem registersAtReset : Obligations.RegistersAtReset := by
  intro c off ho
  refine (exec_brd_next off _ _).2 ⟨ho, ?_⟩
  have hread := registerValue_resetWith c (registerAt off)
  simp only [registerAt_timerAlarm, registerAt_timerStat, registerAt_config0, registerAt_config1,
    registerAt_config2] at hread
  rw [regRead, hread]
  rfl

end Sys2Proof.Machine

/-! PROOFS. The statements about the intake (40_intake.md R100, R101, R104): what one RXB writes, what a burst of bytes
leaves in an empty intake, and which operations write each element. -/

namespace Sys2Proof.Machine

/-! ### One received byte (R100, R101) -/

/-- R101: an RXB that meets a full buffer. -/
theorem exec_rxb_of_full (b : Byte) (s : State) (hcap : 1 ≤ s.cfg.intakeCap) (hfull : s.level = s.cfg.intakeCap) :
    exec (.rxb b) s = .next { recordOverflow s with ib := Memory.write s.ib 0 b, level := 1 } :=
  (exec_rxb_next b s _).2 (.inl ⟨hfull, hcap, rfl⟩)

/-- R100: an RXB that finds room. -/
theorem exec_rxb_of_room (b : Byte) (s : State) (hroom : s.level < s.cfg.intakeCap) :
    exec (.rxb b) s = .next { s with ib := Memory.write s.ib s.level b, level := s.level + 1 } :=
  (exec_rxb_next b s _).2 (.inr ⟨hroom, rfl⟩)

/-- Settles O11: the two cases of RXB, each a write of IB at an index in its canonical form. -/
theorem rxbStoresTheByte : Obligations.RxbStoresTheByte := by
  intro s b hvalid hwf hlevel
  rcases Nat.lt_or_eq_of_le hlevel with hroom | hfull
  · exact ⟨_, exec_rxb_of_room b s hroom,
      fun _ => ⟨rfl, read_write_same _ _ _ none hwf, fun j hj => read_write_ne _ _ _ _ hj, rfl, rfl⟩,
      fun hfull => absurd hfull hroom.ne, rfl⟩
  · exact ⟨_, exec_rxb_of_full b s hvalid.1 hfull, fun hroom => absurd hfull hroom.ne,
      fun _ => ⟨rfl, read_write_same _ _ _ none hwf, fun j hj => read_write_ne _ _ _ _ hj, rfl, rfl⟩, rfl⟩

/-! ### A burst into an empty intake (R100, R101) -/

/-- R22, R23, R31, R32: `t` differs from `s` at most in the elements of the intake: IB, LEVEL, OVF and OVF_CNT. -/
def OnlyIntakeWritten (s t : State) : Prop :=
  t = { s with ib := t.ib, level := t.level, ovf := t.ovf, ovfCnt := t.ovfCnt }

theorem OnlyIntakeWritten.trans {s t u : State} (hst : OnlyIntakeWritten s t) (htu : OnlyIntakeWritten t u) :
    OnlyIntakeWritten s u := by
  unfold OnlyIntakeWritten at hst
  exact Eq.trans htu (by rw [hst])

theorem OnlyIntakeWritten.cfg {s t : State} (h : OnlyIntakeWritten s t) : t.cfg = s.cfg := by
  unfold OnlyIntakeWritten at h
  rw [h]

/-- R100, R101: RXB writes only the intake. -/
theorem exec_rxb_onlyIntakeWritten (b : Byte) (s t : State) (h : exec (.rxb b) s = .next t) :
    OnlyIntakeWritten s t := by
  rcases (exec_rxb_next b s t).1 h with ⟨_, _, rfl⟩ | ⟨_, rfl⟩ <;> rfl

/-- R100, R101: `t` is the state of the empty intake `s` after the bytes `bs` and `k` overflows. Every overflow discarded
INTAKE_CAP bytes, so the bytes received are those discarded and those held. -/
structure AfterBurst (s : State) (bs : List Byte) (k : Nat) (t : State) : Prop where
  run : execAll (rxsOps bs) s = .next t
  frame : OnlyIntakeWritten s t
  ibForm : Memory.wf t.ib = true
  bytesCounted : k * s.cfg.intakeCap + t.level = bs.length
  levelBound : t.level ≤ s.cfg.intakeCap
  levelPos : bs ≠ [] → 0 < t.level
  held : intakeHeld t = bs.drop (k * s.cfg.intakeCap)
  ovfCnt : t.ovfCnt = s.ovfCnt + BitVec.ofNat 32 k
  ovf : t.ovf = (s.ovf || decide (0 < k))

theorem AfterBurst.cfg {s t : State} {bs : List Byte} {k : Nat} (h : AfterBurst s bs k t) : t.cfg = s.cfg :=
  h.frame.cfg

/-- R84: `RXS` of one more byte. -/
theorem execAll_rxsOps_concat (bs : List Byte) (b : Byte) (s t u : State) (ht : execAll (rxsOps bs) s = .next t)
    (hu : exec (.rxb b) t = .next u) : execAll (rxsOps (bs ++ [b])) s = .next u := by
  rw [rxsOps_append, execAll_append_next]
  exact ⟨t, ht, execAll_cons _ _ _ _ hu⟩

theorem AfterBurst.nil (s : State) (hwf : Memory.wf s.ib = true) (hempty : s.level = 0) : AfterBurst s [] 0 s where
  run := rfl
  frame := rfl
  ibForm := hwf
  bytesCounted := by simp [hempty]
  levelBound := by simp [hempty]
  levelPos := nofun
  held := by simp [hempty]
  ovfCnt := by simp
  ovf := by simp

/-- R100: one more byte, with room for it, is held after the others. -/
theorem AfterBurst.concat_of_room {s t : State} {bs : List Byte} {k : Nat} (h : AfterBurst s bs k t) (b : Byte)
    (hroom : t.level < s.cfg.intakeCap) : ∃ u, AfterBurst s (bs ++ [b]) k u := by
  have hu := exec_rxb_of_room b t (h.cfg ▸ hroom)
  refine ⟨_, {
    run := execAll_rxsOps_concat bs b s t _ h.run hu
    frame := h.frame.trans (exec_rxb_onlyIntakeWritten b t _ hu)
    ibForm := wf_write _ _ _ h.ibForm
    bytesCounted := by simp [← h.bytesCounted, Nat.add_assoc]
    levelBound := hroom
    levelPos := fun _ => Nat.succ_pos _
    held := ?_
    ovfCnt := h.ovfCnt
    ovf := h.ovf }⟩
  have hdiscarded : k * s.cfg.intakeCap ≤ bs.length := h.bytesCounted ▸ Nat.le_add_right _ _
  rw [intakeHeld_write t _ t.level b h.ibForm rfl rfl, List.drop_append_of_le_length hdiscarded, ← h.held]
  rfl

/-- R101: one more byte into the full buffer discards all that it held, and is then held alone. -/
theorem AfterBurst.concat_of_full {s t : State} {bs : List Byte} {k : Nat} (h : AfterBurst s bs k t) (b : Byte)
    (hcap : 1 ≤ s.cfg.intakeCap) (hfull : t.level = s.cfg.intakeCap) : ∃ u, AfterBurst s (bs ++ [b]) (k + 1) u := by
  have hu := exec_rxb_of_full b t (h.cfg ▸ hcap) (h.cfg ▸ hfull)
  have hdiscarded : (k + 1) * s.cfg.intakeCap = bs.length := by
    rw [← h.bytesCounted, hfull, Nat.succ_mul]
  refine ⟨_, {
    run := execAll_rxsOps_concat bs b s t _ h.run hu
    frame := h.frame.trans (exec_rxb_onlyIntakeWritten b t _ hu)
    ibForm := wf_write _ _ _ h.ibForm
    bytesCounted := by simp [hdiscarded]
    levelBound := hcap
    levelPos := fun _ => Nat.one_pos
    held := ?_
    ovfCnt := ?_
    ovf := by simp }⟩
  · rw [intakeHeld_write t _ 0 b h.ibForm rfl rfl, hdiscarded, List.drop_left]
    rfl
  · rw [BitVec.ofNat_add, ← BitVec.add_assoc, ← h.ovfCnt]
    rfl

/-- R100, R101: every burst into an empty intake completes, byte by byte. -/
theorem afterBurst_exists (s : State) (bs : List Byte) (hcap : 1 ≤ s.cfg.intakeCap) (hwf : Memory.wf s.ib = true)
    (hempty : s.level = 0) : ∃ k t, AfterBurst s bs k t := by
  induction bs using List.reverseRecOn with
  | nil => exact ⟨0, s, .nil s hwf hempty⟩
  | append_singleton bs b ih =>
    obtain ⟨k, t, h⟩ := ih
    rcases Nat.lt_or_eq_of_le h.levelBound with hroom | hfull
    · exact ⟨k, h.concat_of_room b hroom⟩
    · exact ⟨k + 1, h.concat_of_full b hcap hfull⟩

/-- R101: the overflows and LEVEL are the quotient and the remainder of the bytes before the last one. -/
theorem AfterBurst.div_mod {s t : State} {bs : List Byte} {k : Nat} (h : AfterBurst s bs k t)
    (hcap : 1 ≤ s.cfg.intakeCap) (hbs : bs ≠ []) :
    (bs.length - 1) / s.cfg.intakeCap = k ∧ (bs.length - 1) % s.cfg.intakeCap = t.level - 1 := by
  have hpos := h.levelPos hbs
  have hbound := h.levelBound
  have hcount := h.bytesCounted
  rw [Nat.div_mod_unique hcap, Nat.mul_comm]
  omega

/-- R101: there was an overflow exactly when there were more bytes than fit. -/
theorem AfterBurst.overflowed_iff {s t : State} {bs : List Byte} {k : Nat} (h : AfterBurst s bs k t)
    (hbs : bs ≠ []) : 0 < k ↔ s.cfg.intakeCap < bs.length := by
  have hpos := h.levelPos hbs
  have hbound := h.levelBound
  have hcount := h.bytesCounted
  cases k with
  | zero => omega
  | succ k =>
    rw [Nat.succ_mul] at hcount
    omega

/-- Settles O13: the bytes of the burst are counted by its overflows, INTAKE_CAP each, and by LEVEL. -/
theorem burstKeepsTheFreshestBytes : Obligations.BurstKeepsTheFreshestBytes := by
  intro s bs hvalid hwf hempty hbs
  obtain ⟨k, t, h⟩ := afterBurst_exists s bs hvalid.1 hwf hempty
  obtain ⟨hdiv, hmod⟩ := h.div_mod hvalid.1 hbs
  have hdiscarded : bs.length - t.level = k * s.cfg.intakeCap := by rw [← h.bytesCounted, Nat.add_sub_cancel]
  refine ⟨t, h.run, ?_, ?_, ?_, ?_, h.frame⟩
  · rw [hmod, Nat.sub_add_cancel (h.levelPos hbs)]
  · rw [hdiscarded, h.held]
  · rw [hdiv, h.ovfCnt]
  · rw [h.ovf, decide_eq_decide.2 (h.overflowed_iff hbs)]

/-! ### The writers of each element (R10, R33, R34, R50, R104) -/

@[simp] theorem timerTick_busReads (s : State) : (timerTick s).busReads = s.busReads := by rw [timerTick_frame]

@[simp] theorem regWrite_busReads (v : Word) (off : Byte) (s : State) :
    (regWrite v off s).busReads = s.busReads := by
  rw [regWrite_frame]

/-- R182, R186: the values returned to the bus host are written by BRD alone; RST keeps them. -/
theorem exec_busReads (i : Instr) (s t : State) (h : exec i s = .next t) :
    t.busReads = s.busReads ∨ ∃ off, i = .brd off := by
  rcases exec_cases i s t h with ⟨_, _, _, _, rfl⟩ | ⟨_, _, _, rfl⟩ | ⟨_, rfl⟩ | ⟨_, _, _, rfl⟩ | ⟨_, _, _, rfl⟩ |
    ⟨_, _, _, _, _, rfl⟩ | ⟨_, _, _, rfl⟩ | ⟨off, rfl, _, rfl⟩ | ⟨_, _, _, _, rfl⟩ | ⟨_, rfl⟩ | ⟨_, _, _, _, rfl⟩
  all_goals simp

/-- Settles O56: each way an operation but RST steps names the elements it writes; the others keep their values. -/
theorem eachElementHasItsWriters : Obligations.EachElementHasItsWriters := by
  refine ⟨fun i s t h => ⟨exec_events i s t h, (exec_busReads i s t h).resolve_left⟩, fun i s t hi h => ?_⟩
  rcases exec_cases i s t h with ⟨b, rfl, _, _, rfl⟩ | ⟨b, rfl, _, rfl⟩ | ⟨rfl, rfl⟩ | ⟨rfl, _, _, rfl⟩ |
    ⟨rfl, _, _, rfl⟩ | ⟨_, _, rfl, _, _, rfl⟩ | ⟨rfl, _, _, rfl⟩ | ⟨_, rfl, _, rfl⟩ | ⟨_, _, rfl, _, rfl⟩ | ⟨hrst, _⟩ |
    ⟨_, _, hagent, _, rfl⟩
  · simp
  · simp
  · rw [timerTick_frame]
    simp
  · simp
  · simp [Instr.agent]
  · simp [Instr.agent]
  · simp
  · simp
  · rw [regWrite_frame]
    simp
  · exact absurd hrst hi
  · simp [hagent]

end Sys2Proof.Machine

/-! PROOFS. The statements about the scheduler (41_scheduler.md R110 to R119): that every step keeps the invariants, the
timer and its periods, and the tick sequencer's operations. -/

namespace Sys2Proof.Machine

/-! ### The invariants over steps (R23, R24, R27, R51, R111, R116) -/

/-- R10: the invariants do not speak of the agents' supply. -/
theorem State.Inv.with_events {s : State} (hs : s.Inv) (e : List Word) : State.Inv { s with events := e } :=
  { hs with }

/-- R10, R76: a step that answers a next state is an operation, run once its word has left the supply. -/
theorem step_next (s t : State) (h : step s = .next t) :
    ∃ i rest, exec i { s with events := rest } = .next t := by
  cases hs : s.events with
  | nil =>
    rw [step_of_no_events s hs] at h
    cases h
  | cons w rest =>
    cases hd : decodeEvent w with
    | error e =>
      rw [step_cons s w rest hs, hd] at h
      cases h
    | ok i => exact ⟨i, rest, (step_of_decode s w rest i hs hd).symm.trans h⟩

/-- Settles O52: a step is one operation, and every operation keeps the invariants. -/
theorem everyStepKeepsTheInvariants : Obligations.EveryStepKeepsTheInvariants := by
  refine ⟨exec_inv, fun s t hs h => ?_⟩
  obtain ⟨i, rest, hexec⟩ := step_next s t h
  exact exec_inv i _ t (hs.with_events rest) hexec

/-- Settles O51: `State.reset` is the reset state of the block `Config.core`, whose parameters are valid. -/
theorem resetStateMeetsTheInvariants : Obligations.ResetStateMeetsTheInvariants :=
  ⟨resetWith_inv, resetWith_inv Config.core (by decide)⟩

/-! ### The timer (R110, R112, R118) -/

/-- Settles O14: the two cases of a count, with and without a match. -/
theorem tincAdvancesAndMatches : Obligations.TincAdvancesAndMatches := by
  intro s
  refine ⟨timerTick s, exec_tinc s, ?_⟩
  rcases timerTick_cases s with ⟨harmed, hmatch, e⟩ | ⟨hno, e⟩ <;> rw [e]
  · exact ⟨rfl, fun _ _ => ⟨rfl, rfl⟩, fun hno => absurd hmatch (hno.resolve_left (by simp [harmed])), rfl⟩
  · exact ⟨rfl, fun harmed hmatch => absurd hmatch (hno.resolve_left (by simp [harmed])), fun _ => ⟨rfl, rfl⟩, rfl⟩

/-- Settles O17: a disarmed timer has no match, so a run of counts advances COUNT alone. -/
theorem noMatchWhileDisarmed : Obligations.NoMatchWhileDisarmed :=
  fun s n hdisarmed => advOps_run n s fun _ _ _ harmed => by simp [hdisarmed] at harmed

/-- Settles O15: TACK answers a next state exactly under its guard. -/
theorem tackAcknowledgesAndRearms : Obligations.TackAcknowledgesAndRearms := by
  refine fun s => ⟨fun hpending hidle => (exec_tack_next s _).2 ⟨hpending, hidle, rfl⟩, fun hno t h => ?_⟩
  obtain ⟨hpending, hidle, _⟩ := (exec_tack_next s t).1 h
  simp [hpending, hidle] at hno

/-! ### The tick sequencer (R113 to R116, R119) -/

/-- Settles O20: DSNAP answers a next state in DUE alone, with the held bytes as WQ. -/
theorem dsnapTakesTheSnapshot : Obligations.DsnapTakesTheSnapshot := by
  refine fun s => ⟨fun hdue hlevel => ⟨_, (exec_dsnap_next s _).2 ⟨hdue, hlevel, rfl⟩, intakeHeld_length s,
    fun j hj => ?_, rfl, rfl, rfl⟩, fun hno t h => hno ((exec_dsnap_next s t).1 h).1⟩
  simp [intakeHeld, hj]

/-- Settles O21: PSTEP answers a next state exactly under its guard, and writes what the parser step writes. -/
theorem pstepGivesTheHeadToTheParser : Obligations.PstepGivesTheHeadToTheParser := by
  refine fun s => ⟨fun b rest hparsing hwq => ⟨_, exec_pstep_cons s b rest hparsing hwq, rfl, parseByte_frame b _⟩,
    fun hno t h => ?_⟩
  obtain ⟨hparsing, b, rest, hwq, _⟩ := (exec_pstep_next s t).1 h
  simp [hparsing, hwq] at hno

/-- Settles O22: DEND answers a next state exactly under its guard. -/
theorem dendEndsTheBody : Obligations.DendEndsTheBody := by
  refine fun s => ⟨fun hparsing hwq => (exec_dend_next s _).2 ⟨hparsing, hwq, rfl⟩, fun hno t h => ?_⟩
  obtain ⟨hparsing, hwq, _⟩ := (exec_dend_next s t).1 h
  simp [hparsing, hwq] at hno

@[simp] theorem timerTick_tph (s : State) : (timerTick s).tph = s.tph := by rw [timerTick_frame]

@[simp] theorem regWrite_tph (v : Word) (off : Byte) (s : State) : (regWrite v off s).tph = s.tph := by
  rw [regWrite_frame]

/-- Settles O23: of the ways an operation but RST steps, TACK, DSNAP and DEND write TPH, each from the one phase that
enables it. -/
theorem tickPhasesInOrder : Obligations.TickPhasesInOrder := by
  intro i s t hi h
  rcases exec_cases i s t h with ⟨b, rfl, _, _, rfl⟩ | ⟨b, rfl, _, rfl⟩ | ⟨rfl, rfl⟩ | ⟨rfl, _, hidle, rfl⟩ |
    ⟨rfl, hdue, _, rfl⟩ | ⟨_, _, rfl, _, _, rfl⟩ | ⟨rfl, hparsing, _, rfl⟩ | ⟨_, rfl, _, rfl⟩ | ⟨_, _, rfl, _, rfl⟩ |
    ⟨hrst, _⟩ | ⟨b, hclass, _, _, rfl⟩
  · exact .inl ⟨rfl, nofun, nofun, nofun⟩
  · exact .inl ⟨rfl, nofun, nofun, nofun⟩
  · exact .inl ⟨timerTick_tph s, nofun, nofun, nofun⟩
  · exact .inr (.inl ⟨rfl, hidle, rfl⟩)
  · exact .inr (.inr (.inl ⟨rfl, hdue, rfl⟩))
  · exact .inl ⟨parseByte_tph _ _, nofun, nofun, nofun⟩
  · exact .inr (.inr (.inr ⟨rfl, hparsing, rfl⟩))
  · exact .inl ⟨rfl, nofun, nofun, nofun⟩
  · exact .inl ⟨regWrite_tph _ _ s, nofun, nofun, nofun⟩
  · exact absurd hrst hi
  · refine .inl ⟨parseByte_tph b s, ?_, ?_, ?_⟩ <;> rintro rfl <;> cases hclass

/-- R119: DSNAP and DEND with nothing to drain, in DUE with WQ empty. -/
theorem emptyDrain_run (s : State) (hdue : s.tph = .due) (hlevel : s.level = 0) (hwq : s.wq = []) :
    execAll [.dsnap, .dend] s = .next { s with tph := .idle } := by
  have hdrain := drainParsesTheHeldBytesInOrder s hdue (hlevel ▸ Nat.zero_le _)
  have hops : drainOps s = [.dsnap, .dend] := by simp [drainOps, hlevel]
  rw [hops, intakeHeld_empty s hlevel, parseBytes_nil] at hdrain
  rw [hdrain, ← hlevel, ← hwq]

/-- Settles O24: outside PARSING the invariants leave WQ empty. -/
theorem emptyDrainChangesOnlyThePhase : Obligations.EmptyDrainChangesOnlyThePhase :=
  fun s hs hdue hlevel => emptyDrain_run s hdue hlevel (hs.wqEmpty (by rw [hdue]; nofun))

/-! ### Tick periods (R117) -/

/-- R112, R119: a tick with nothing to drain, taken in IDLE, acknowledges, rearms and comes back to IDLE. -/
theorem emptyTick_run (s : State) (hpending : s.pending = true) (hidle : s.tph = .idle) (hlevel : s.level = 0)
    (hwq : s.wq = []) :
    execAll emptyTickOps s = .next { s with
      pending := false, alarm := s.count + s.cfg.tickPeriod, armed := true } := by
  have htack := (exec_tack_next s _).2 ⟨hpending, hidle, rfl⟩
  rw [emptyTickOps, execAll_cons _ _ _ _ htack, emptyDrain_run (acknowledgeTick s) rfl hlevel hwq, ← hidle]
  rfl

/-- R117: an armed timer, in IDLE, whose alarm is one period ahead, with no tick pending and nothing to drain. -/
structure AtPeriodStart (s : State) : Prop where
  cfgValid : s.cfg.Valid
  armed : s.armed = true
  notPending : s.pending = false
  idle : s.tph = .idle
  nothingHeld : s.level = 0
  nothingDrained : s.wq = []
  alarmAhead : s.alarm = s.count + s.cfg.tickPeriod

/-- R84: at the start of a period, WAIT is TICK_PERIOD counts. -/
theorem AtPeriodStart.waitCount_eq {s : State} (h : AtPeriodStart s) : waitCount s = s.cfg.tickPeriod.toNat := by
  rw [waitCount, h.alarmAhead, BitVec.add_comm, BitVec.add_sub_cancel]

/-- R117: one period takes COUNT to the alarm and sets the alarm one period further. -/
theorem AtPeriodStart.period_run {s : State} (h : AtPeriodStart s) :
    execAll (periodOps s.cfg) s = .next { s with count := s.alarm, alarm := s.alarm + s.cfg.tickPeriod } := by
  have hpos : 1 ≤ waitCount s := by
    rw [h.waitCount_eq, Nat.one_le_iff_ne_zero]
    exact fun hz => h.cfgValid.2.2 (BitVec.eq_of_toNat_eq hz)
  have htick := emptyTick_run { s with count := s.alarm, pending := true, armed := false } rfl h.idle h.nothingHeld
    h.nothingDrained
  rw [periodOps, ← h.waitCount_eq, execAll_append_next]
  refine ⟨_, wait_run s h.armed hpos, htick.trans ?_⟩
  rw [h.armed, h.notPending]

/-- R117: the end of a period is the start of the next one. -/
theorem AtPeriodStart.next_period {s : State} (h : AtPeriodStart s) :
    AtPeriodStart { s with count := s.alarm, alarm := s.alarm + s.cfg.tickPeriod } :=
  { h with alarmAhead := rfl }

/-- R12: one period and then `n` more. -/
theorem add_period_succ (x p : Word) (n : Nat) :
    x + p + BitVec.ofNat 32 n * p = x + BitVec.ofNat 32 (n + 1) * p := by
  have hone : BitVec.ofNat 32 1 = (1 : Word) := rfl
  rw [BitVec.ofNat_add, hone]
  ring

/-- R117: `n` periods, each as `AtPeriodStart.period_run`. -/
theorem AtPeriodStart.periods_run {s : State} (h : AtPeriodStart s) (n : Nat) :
    execAll (List.replicate n (periodOps s.cfg)).flatten s =
      .next { s with
        count := s.count + BitVec.ofNat 32 n * s.cfg.tickPeriod
        alarm := s.count + BitVec.ofNat 32 (n + 1) * s.cfg.tickPeriod } := by
  induction n generalizing s with
  | zero =>
    have halarm : s.count + BitVec.ofNat 32 (0 + 1) * s.cfg.tickPeriod = s.alarm := by simp [h.alarmAhead]
    have hcount : s.count + BitVec.ofNat 32 0 * s.cfg.tickPeriod = s.count := by simp
    rw [halarm, hcount]
    rfl
  | succ n ih =>
    rw [List.replicate_succ, List.flatten_cons, execAll_append_next]
    refine ⟨_, h.period_run, (ih h.next_period).trans ?_⟩
    simp only [h.alarmAhead, add_period_succ]

/-- Settles O18, by induction on the periods. -/
theorem ticksComeOnePeriodApart : Obligations.TicksComeOnePeriodApart :=
  fun _ n hvalid harmed hpending hidle hlevel hwq halarm =>
    AtPeriodStart.periods_run ⟨hvalid, harmed, hpending, hidle, hlevel, hwq, halarm⟩ n

end Sys2Proof.Machine

/-! PROOFS. The statements about the frame parser (42_frame_parser.md R130 to R140): one byte in each parser state, the
byte that ends a frame, whole frames, a frame of sixteen channel values end to end, and drains that split the bytes. -/

namespace Sys2Proof.Machine

/-! ### The sync byte and the length byte (R131, R133) -/

/-- R131: in AWAIT_SYNC the sync byte starts a frame and any other byte is discarded. -/
theorem parseByte_awaitSync (b : Byte) (s : State) (hp : s.pstate = .awaitSync) :
    parseByte b s = if b = syncByte then { s with pstate := .readLen } else s := by
  rw [parseByte, hp]
  rfl

/-- R133: in READ_LEN every byte is the length of a frame. -/
theorem parseByte_readLen (b : Byte) (s : State) (hp : s.pstate = .readLen) :
    parseByte b s = { s with flen := b, cursor := 0, pstate := if b = 0 then .awaitSync else .readPayload } := by
  rw [parseByte, hp]
  rfl

/-- Settles O28: the two classes of AWAIT_SYNC are the parser's step there, and need that state. -/
theorem syncIsRecognisedOnlyInAwaitSync : Obligations.SyncIsRecognisedOnlyInAwaitSync := by
  refine fun s b => ⟨fun hp => ⟨?_, fun hb => ?_, parseByte_awaitSync b s hp⟩, fun hp t => ⟨fun h => ?_, fun h => ?_⟩⟩
  · exact (exec_syncHit_next s _).2 ⟨hp, ((parseByte_awaitSync _ s hp).trans (if_pos rfl)).symm⟩
  · exact (exec_syncMiss_next b s _).2 ⟨hp, hb, ((parseByte_awaitSync b s hp).trans (if_neg hb)).symm⟩
  · exact hp ((exec_syncHit_next s t).1 h).1
  · exact hp ((exec_syncMiss_next b s t).1 h).1

/-- Settles O29: the two classes of READ_LEN are the parser's step there. -/
theorem lengthByteStartsTheBody : Obligations.LengthByteStartsTheBody := by
  refine fun s b hp => ⟨?_, fun hb => ?_, parseByte_readLen b s hp⟩
  · exact (exec_lenZero_next s _).2 ⟨hp, (parseByte_readLen 0 s hp).symm⟩
  · exact (exec_len_next b s _).2 ⟨hp, hb, by rw [parseByte_readLen b s hp, if_neg hb]⟩

/-! ### One body byte (R132) -/

@[simp] theorem advanceCursor_ptype (s : State) : (advanceCursor s).ptype = s.ptype := by
  rcases advanceCursor_cases s with ⟨_, e⟩ | ⟨_, e⟩ <;> simp [e]

@[simp] theorem advanceCursor_pb (s : State) : (advanceCursor s).pb = s.pb := by
  rcases advanceCursor_cases s with ⟨_, e⟩ | ⟨_, e⟩ <;> simp [e]

@[simp] theorem advanceCursor_flen (s : State) : (advanceCursor s).flen = s.flen := by
  rcases advanceCursor_cases s with ⟨_, e⟩ | ⟨_, e⟩ <;> simp [e]

@[simp] theorem advanceCursor_cursor (s : State) : (advanceCursor s).cursor = s.cursor + 1 := by
  rcases advanceCursor_cases s with ⟨_, e⟩ | ⟨_, e⟩ <;> simp [e]

/-- R132: a body byte is latched and captured, then CURSOR advances. -/
theorem parseByte_readPayload (b : Byte) (s : State) (hp : s.pstate = .readPayload) :
    parseByte b s = advanceCursor (captured b s) := by
  rw [parseByte, hp]
  rfl

/-- R132: the packet type after a body byte. -/
theorem parseByte_body_ptype (b : Byte) (s : State) (hp : s.pstate = .readPayload) :
    (parseByte b s).ptype = if s.cursor = 0 then b else s.ptype := by
  rw [parseByte_readPayload b s hp, advanceCursor_ptype]
  exact captured_ptype b s

/-- R132: a body byte is captured in a frame of the accepted type, inside PB. -/
theorem parseByte_body_pb (b : Byte) (s : State) (hp : s.pstate = .readPayload) :
    (parseByte b s).pb =
      if (parseByte b s).ptype = acceptType ∧ s.cursor.toNat < payloadCap then s.pb.setIfInBounds s.cursor.toNat b
      else s.pb := by
  rw [parseByte_readPayload b s hp, advanceCursor_ptype, advanceCursor_pb, captured_pb_eq]

/-- R132: CURSOR counts a body byte. -/
theorem parseByte_body_cursor (b : Byte) (s : State) (hp : s.pstate = .readPayload) :
    (parseByte b s).cursor = s.cursor + 1 := by
  rw [parseByte_readPayload b s hp, advanceCursor_cursor, captured_cursor]

/-- R132: what is captured is the PTYPE and PB that the body byte leaves. -/
theorem captured_of_body (b : Byte) (s : State) (hp : s.pstate = .readPayload) :
    captured b s = { s with ptype := (parseByte b s).ptype, pb := (parseByte b s).pb } := by
  rw [parseByte_readPayload b s hp, advanceCursor_ptype, advanceCursor_pb, ← captured_eq]

/-- R132: before the frame's end, a body byte writes PTYPE, PB and CURSOR alone. -/
theorem parseByte_body_before_end (b : Byte) (s : State) (hp : s.pstate = .readPayload)
    (hmore : s.cursor + 1 ≠ s.flen) :
    parseByte b s = { s with
      ptype := (parseByte b s).ptype, pb := (parseByte b s).pb, cursor := s.cursor + 1 } := by
  have e := (parseByte_readPayload b s hp).trans (congrArg advanceCursor (captured_of_body b s hp))
  exact e.trans (if_neg hmore)

/-- R132, R136: the state that the byte ending a frame completes. -/
def atFrameEnd (b : Byte) (s : State) : State :=
  { s with
    ptype := (parseByte b s).ptype, pb := (parseByte b s).pb, cursor := s.cursor + 1, pstate := .awaitSync }

@[simp] theorem atFrameEnd_pb (b : Byte) (s : State) : (atFrameEnd b s).pb = (parseByte b s).pb := rfl

theorem parseByte_body_at_end (b : Byte) (s : State) (hp : s.pstate = .readPayload) (hend : s.cursor + 1 = s.flen) :
    parseByte b s = completeFrame (atFrameEnd b s) := by
  have e := (parseByte_readPayload b s hp).trans (congrArg advanceCursor (captured_of_body b s hp))
  exact e.trans (if_pos hend)

/-- R132: a body byte does not write FLEN. -/
theorem parseByte_body_frame (b : Byte) (s : State) (hp : s.pstate = .readPayload) :
    parseByte b s = { s with
      pstate := (parseByte b s).pstate, ptype := (parseByte b s).ptype, pb := (parseByte b s).pb
      cursor := (parseByte b s).cursor, ch := (parseByte b s).ch, new := (parseByte b s).new
      crcErr := (parseByte b s).crcErr, lenErr := (parseByte b s).lenErr, frameSeq := (parseByte b s).frameSeq
      crcErrCnt := (parseByte b s).crcErrCnt } := by
  have hflen : (parseByte b s).flen = s.flen := by
    rw [parseByte_readPayload b s hp, advanceCursor_flen, captured_flen]
  refine (parseByte_frame b s).trans ?_
  rw [hflen]

/-- Settles O30: BODY is the parser's step in READ_PAYLOAD; below FLEN, CURSOR + 1 does not wrap. -/
theorem bodyByteIsCapturedAndCounted : Obligations.BodyByteIsCapturedAndCounted := by
  intro s b hp hlt
  have hcursor := parseByte_body_cursor b s hp
  have hpb := parseByte_body_pb b s hp
  refine ⟨parseByte b s, (exec_body_next b s _).2 ⟨hp, rfl⟩, parseByte_body_ptype b s hp, fun hcapture => ?_,
    fun hno => ?_, ?_, fun hend => ?_, fun hmore => ?_, parseByte_body_frame b s hp⟩
  · rw [hpb.trans (if_pos hcapture)]
    exact ⟨by simp [hcapture.2], fun j hj => by simp [hj.symm]⟩
  · exact hpb.trans (if_neg fun hcapture => hno.elim (· hcapture.1) (Nat.not_le.2 hcapture.2))
  · have hflen := s.flen.isLt
    have hone : (1 : Byte).toNat = 1 := rfl
    rw [hcursor, BitVec.toNat_add, hone, Nat.mod_eq_of_lt (by omega)]
  · rw [parseByte_body_at_end b s hp (hcursor ▸ hend), completeFrame_pstate]
    rfl
  · rw [hcursor] at hmore ⊢
    exact parseByte_body_before_end b s hp hmore

/-! ### The byte that ends a frame (R136 to R140) -/

/-- R140: a frame of another type records nothing. -/
theorem completeFrame_of_otherType (s : State) (ht : s.ptype ≠ acceptType) : completeFrame s = s := if_pos ht

/-- R139: an accepted frame of a wrong length is a length error. -/
theorem completeFrame_of_wrongLength (s : State) (ht : s.ptype = acceptType) (hl : s.flen ≠ expectLen) :
    completeFrame s = recordLenError s :=
  (if_neg (not_not_intro ht)).trans (if_pos hl)

/-- R137: an accepted frame of length 24 with zero residue updates the channels. -/
theorem completeFrame_of_crc_zero (s : State) (ht : s.ptype = acceptType) (hl : s.flen = expectLen)
    (hcrc : crc8 s.pb.toList = 0) : completeFrame s = recordUpdate { s with ch := unpack (dataBytesOf s.pb) } :=
  (if_neg (not_not_intro ht)).trans ((if_neg (not_not_intro hl)).trans (if_pos hcrc))

/-- R138: an accepted frame of length 24 with another residue is a CRC error. -/
theorem completeFrame_of_crc_nonzero (s : State) (ht : s.ptype = acceptType) (hl : s.flen = expectLen)
    (hcrc : crc8 s.pb.toList ≠ 0) : completeFrame s = recordCrcError s :=
  (if_neg (not_not_intro ht)).trans ((if_neg (not_not_intro hl)).trans (if_neg hcrc))

/-- Settles O31: the byte completes the frame in AWAIT_SYNC, with one outcome by type, length and CRC. -/
theorem frameCompletionRecordsOneOutcome : Obligations.FrameCompletionRecordsOneOutcome := by
  intro s b hp hend
  have hpb := parseByte_body_pb b s hp
  have e := parseByte_body_at_end b s hp hend
  have hpstate : (parseByte b s).pstate = .awaitSync := by rw [e, completeFrame_pstate]; rfl
  refine ⟨parseByte b s, (exec_body_next b s _).2 ⟨hp, rfl⟩, hpstate, parseByte_body_cursor b s hp,
    parseByte_body_ptype b s hp, hpb, fun ht => ?_, fun ht hl => ?_, fun ht hl hcrc => ?_, fun ht hl hcrc => ?_⟩ <;>
    rw [hpstate, parseByte_body_cursor b s hp]
  · have hnone := e.trans (completeFrame_of_otherType (atFrameEnd b s) ht)
    rw [atFrameEnd, hpb.trans (if_neg fun hcapture => ht hcapture.1)] at hnone
    exact hnone
  · exact e.trans (completeFrame_of_wrongLength (atFrameEnd b s) ht hl)
  · have hupdate := e.trans (completeFrame_of_crc_zero (atFrameEnd b s) ht hl hcrc)
    rw [atFrameEnd_pb] at hupdate
    exact hupdate
  · exact e.trans (completeFrame_of_crc_nonzero (atFrameEnd b s) ht hl hcrc)

/-! ### One whole frame, from AWAIT_SYNC (R131 to R140) -/

/-- R131, R133: the sync byte and a length other than 0 lead to the start of the body. -/
theorem parseBytes_header (l : Byte) (rest : List Byte) (s : State) (hp : s.pstate = .awaitSync) (hl : l ≠ 0) :
    parseBytes (syncByte :: l :: rest) s =
      parseBytes rest { s with flen := l, cursor := 0, pstate := .readPayload } := by
  rw [parseBytes_cons, parseBytes_cons, parseByte_awaitSync _ s hp, if_pos rfl, parseByte_readLen l _ rfl, if_neg hl]

/-- R132: the state in which a frame of type `ty` with the body bytes `bs` after it is complete, parsed from `s` in
AWAIT_SYNC. -/
def frameRead (ty : Byte) (bs : List Byte) (s : State) : State :=
  { s with
    flen := BitVec.ofNat 8 (bs.length + 1), cursor := BitVec.ofNat 8 (bs.length + 1), ptype := ty
    pb := if ty = acceptType then captureAll s.pb 0 (ty :: bs) else s.pb }

/-- R9: numbers below 256 are bytes of their own. -/
theorem ofNat_byte_ne {m n : Nat} (hm : m < 256) (hn : n < 256) (h : m ≠ n) : BitVec.ofNat 8 m ≠ BitVec.ofNat 8 n := by
  intro heq
  have htoNat := congrArg BitVec.toNat heq
  rw [BitVec.toNat_ofNat, BitVec.toNat_ofNat, Nat.mod_eq_of_lt hm, Nat.mod_eq_of_lt hn] at htoNat
  exact h htoNat

/-- R132, R136: a frame is read byte by byte and completed at its last byte. -/
theorem parseBytes_whole_frame (ty : Byte) (bs : List Byte) (s : State) (hp : s.pstate = .awaitSync)
    (hlen : bs.length ≤ 254) :
    parseBytes (syncByte :: BitVec.ofNat 8 (bs.length + 1) :: ty :: bs) s = completeFrame (frameRead ty bs s) := by
  have hne : BitVec.ofNat 8 (bs.length + 1) ≠ 0 := ofNat_byte_ne (by omega) (by decide) (Nat.succ_ne_zero _)
  have htype := parseByte_body_at ty { s with
    flen := BitVec.ofNat 8 (bs.length + 1), cursor := 0, pstate := .readPayload } 0 (bs.length + 1) rfl rfl rfl
    (by omega) (by omega)
  rw [parseBytes_header _ _ s hp hne, parseBytes_cons, htype]
  cases bs with
  | nil => rw [frameRead, ← hp]; rfl
  | cons b bs =>
    rw [if_neg (by simp)]
    refine (parseBytes_body (b :: bs) _ 1 ((b :: bs).length + 1) rfl rfl rfl (Nat.add_comm _ _) (by omega) nofun
      Nat.one_pos).trans ?_
    rw [frameRead, ← hp]
    by_cases ha : ty = acceptType
    · simp only [if_true, ha, captureAll]
    · simp only [if_true, if_false, ha]

/-- R132: PB after the bytes `bs` were captured from index 0 on. -/
theorem captureAll_toList (bs : List Byte) (v : Vector Byte 24) :
    (captureAll v 0 bs).toList = bs.take 24 ++ v.toList.drop bs.length := by
  apply List.ext_getElem
  · simp
    omega
  · intro i hi _
    have hi : i < 24 := by simpa using hi
    rw [Vector.getElem_toList, captureAll_get bs v 0 i hi, List.getElem_append]
    by_cases h : i < bs.length
    · simp [h, hi]
    · have hlen : min 24 bs.length = bs.length := by omega
      have hadd : bs.length + (i - bs.length) = i := by omega
      simp [h, hlen, hadd]

/-- R132: PB after a whole accepted frame. -/
theorem frameRead_pb_toList (bs : List Byte) (s : State) :
    (frameRead acceptType bs s).pb.toList =
      (acceptType :: bs).take 24 ++ s.pb.toList.drop (bs.length + 1) :=
  captureAll_toList (acceptType :: bs) s.pb

/-- R132: an accepted frame of length 24 fills PB. -/
theorem frameRead_pb_of_full (bs : List Byte) (s : State) (hlen : bs.length = 23) :
    (frameRead acceptType bs s).pb.toList = acceptType :: bs := by
  rw [frameRead_pb_toList, List.take_of_length_le (by simp [hlen]), List.drop_of_length_le (by simp [hlen]),
    List.append_nil]

/-- R140: a frame of another type leaves PB alone. -/
theorem frameRead_of_otherType (ty : Byte) (bs : List Byte) (s : State) (ht : ty ≠ acceptType) :
    frameRead ty bs s = { s with
      flen := BitVec.ofNat 8 (bs.length + 1), cursor := BitVec.ofNat 8 (bs.length + 1), ptype := ty } := by
  rw [frameRead, if_neg ht]

/-- Settles O35: the frame is read, and its completion records nothing. -/
theorem otherTypeFrameIsConsumedSilently : Obligations.OtherTypeFrameIsConsumedSilently := by
  intro s ty bs hp ht hlen
  exact (parseBytes_whole_frame ty bs s hp hlen).trans
    ((completeFrame_of_otherType (frameRead ty bs s) ht).trans (frameRead_of_otherType ty bs s ht))

/-- Settles O36: the frame is read, and its completion is a length error. -/
theorem wrongLengthFrameIsNotValidated : Obligations.WrongLengthFrameIsNotValidated := by
  intro s bs hp hlen hwrong
  have hflen : (frameRead acceptType bs s).flen ≠ expectLen :=
    ofNat_byte_ne (n := 24) (by omega) (by decide) (by omega)
  have e := (parseBytes_whole_frame acceptType bs s hp hlen).trans (completeFrame_of_wrongLength _ rfl hflen)
  exact ⟨_, e, frameRead_pb_toList bs s, rfl⟩

/-- R164: appending a byte leaves residue zero exactly for the check byte. -/
theorem crc8_append_eq_zero (p : List Byte) (x : Byte) : crc8 (p ++ [x]) = 0 ↔ x = crc8 p := by
  rw [crc8_append_one]
  exact (crcShifts_eq_zero 8 _).trans (BitVec.xor_eq_zero_iff.trans eq_comm)

/-- R138, R163: the residue of a frame of length 24 is zero exactly for the CRC of its body. -/
theorem frameRead_residue (ds : List Byte) (x : Byte) (s : State) (hds : ds.length = 22) :
    crc8 (frameRead acceptType (ds ++ [x]) s).pb.toList = 0 ↔ x = crc8 (acceptType :: ds) := by
  rw [frameRead_pb_of_full (ds ++ [x]) s (by simp [hds])]
  exact crc8_append_eq_zero (acceptType :: ds) x

/-- R132: FLEN and CURSOR of a frame with 22 data bytes. -/
theorem ofNat_length_of_full (ds : List Byte) (x : Byte) (hds : ds.length = 22) :
    BitVec.ofNat 8 ((ds ++ [x]).length + 1) = expectLen := by
  rw [List.length_append, hds]
  rfl

/-- R132, R136: a frame of length 24 is read byte by byte and completed at its check byte. -/
theorem parseBytes_full_frame (ds : List Byte) (x : Byte) (s : State) (hp : s.pstate = .awaitSync)
    (hds : ds.length = 22) :
    parseBytes (syncByte :: expectLen :: acceptType :: (ds ++ [x])) s =
      completeFrame (frameRead acceptType (ds ++ [x]) s) := by
  rw [← ofNat_length_of_full ds x hds]
  exact parseBytes_whole_frame acceptType (ds ++ [x]) s hp (by simp [hds])

/-- R132: a frame of length 24 that is read leaves 24 in FLEN and CURSOR, and its body in PB. -/
theorem frameRead_of_full (ds : List Byte) (x : Byte) (s : State) (hds : ds.length = 22) :
    frameRead acceptType (ds ++ [x]) s = { s with
      flen := expectLen, cursor := expectLen, ptype := acceptType
      pb := (frameRead acceptType (ds ++ [x]) s).pb } := by
  rw [← ofNat_length_of_full ds x hds]
  rfl

/-- Settles O34: the frame fills PB, and its residue is not zero. -/
theorem corruptedFrameLeavesChannels : Obligations.CorruptedFrameLeavesChannels := by
  intro s ds x hp hds hx
  have hread := frameRead_of_full ds x s hds
  have hcrc := mt (frameRead_residue ds x s hds).1 hx
  have e := (parseBytes_full_frame ds x s hp hds).trans
    (completeFrame_of_crc_nonzero _ rfl (ofNat_length_of_full ds x hds) hcrc)
  refine ⟨_, e, frameRead_pb_of_full (ds ++ [x]) s (by simp [hds]), ?_⟩
  exact congrArg recordCrcError hread

/-! ### The packer and its inverse (R172) -/

/-- R172: bit `p` of the number `W` that the channels spell is bit `p mod 11` of channel `p div 11`. -/
theorem testBit_packedNumber (c : Vector Chan 16) (p : Nat) (hp : p < 176) :
    (packedNumber c).testBit p = (c.getD (p / 11) 0).getLsbD (p % 11) := by
  rw [packedNumber, (testBit_sum_shift 11 (by decide) (fun k => (c.getD k 0).toNat) (fun k => (c.getD k 0).isLt) 16 p).1,
    decide_eq_true hp, Bool.true_and, BitVec.testBit_toNat]

/-- R172: the stream bits of the packed bytes are the bits of `W`. -/
theorem streamBit_pack (c : Vector Chan 16) (p : Nat) (hp : p < 176) :
    streamBit (pack c) p = (packedNumber c).testBit p := by
  have hbyte : (pack c).getD (p / 8) 0 = BitVec.ofNat 8 (packedNumber c >>> (8 * (p / 8))) := by
    rw [vector_getD, dif_pos (by omega), pack, Vector.getElem_ofFn]
  have hbit : p % 8 < 8 := Nat.mod_lt p (by decide)
  rw [streamBit, hbyte, BitVec.getLsbD_ofNat, decide_eq_true hbit, Bool.true_and, Nat.testBit_shiftRight,
    Nat.div_add_mod]

/-- R172: unpacking inverts packing. -/
theorem unpack_pack (c : Vector Chan 16) : unpack (pack c) = c := by
  apply Vector.ext
  intro k hk
  apply BitVec.eq_of_getLsbD_eq
  intro j hj
  have hget : ∀ v : Vector Chan 16, v.getD k 0 = v[k] := fun v => by rw [vector_getD, dif_pos hk]
  have hdiv : (11 * k + j) / 11 = k := by omega
  have hmod : (11 * k + j) % 11 = j := by omega
  rw [← hget, ← hget, unpack_bit _ k j hk hj, streamBit_pack c _ (by omega), testBit_packedNumber c _ (by omega), hdiv,
    hmod]

/-- R170: the data bytes of a captured body are those between its type and its check byte. -/
theorem dataBytesOf_of_toList (pb : Vector Byte 24) (d : Vector Byte 22) (t x : Byte)
    (h : pb.toList = t :: (d.toList ++ [x])) : dataBytesOf pb = d := by
  apply Vector.ext
  intro j hj
  have hlt : j + 1 < 24 := by omega
  rw [dataBytesOf, Vector.getElem_ofFn, vector_getD, dif_pos hlt, ← Vector.getElem_toList (by simpa using hlt)]
  simp [h, hj]

/-! ### Receiving and draining (R84) -/

/-- R83: a line of a trace whose operations reach the end. -/
theorem runTrace_cons (l : TraceOp) (rest : List TraceOp) (s t : State) (is : List Instr) (hl : l.expand s = some is)
    (h : execAll is s = .next t) : runTrace (l :: rest) s = runTrace rest t := by
  simp only [runTrace, hl, h]

/-- R130: a change of the intake passes through a parser run. -/
theorem parseBytes_with_intake (bs : List Byte) (s : State) (m : Memory) (l : Nat) :
    parseBytes bs { s with ib := m, level := l } = { parseBytes bs s with ib := m, level := l } := by
  refine (parseBytes_with bs s m l s.wq s.tph).trans ?_
  rw [parseBytes_frame bs s]
  rfl

/-- R84, R100, R113 to R115: in DUE with an empty intake, bytes that fit and are drained are parsed in order. -/
theorem receive_drain_run (bs : List Byte) (s : State) (hwf : Memory.wf s.ib = true) (hdue : s.tph = .due)
    (hempty : s.level = 0) (hfit : bs.length ≤ s.cfg.intakeCap) :
    ∃ m, Memory.wf m = true ∧ ∀ rest,
      runTrace (.rxs bs :: .drain :: rest) s =
        runTrace rest { parseBytes bs s with ib := m, level := 0, wq := [], tph := .idle } := by
  obtain ⟨m, hrun, hm, hheld⟩ := rxs_fits bs s hwf (by omega)
  rw [intakeHeld_empty s hempty, List.nil_append] at hheld
  refine ⟨m, hm, fun rest => ?_⟩
  have hlevel : s.level + bs.length ≤ s.cfg.intakeCap := by omega
  have hdrain := drainParsesTheHeldBytesInOrder { s with ib := m, level := s.level + bs.length } hdue hlevel
  rw [hheld] at hdrain
  rw [runTrace_cons _ _ _ _ _ rfl hrun, runTrace_cons _ _ _ _ _ rfl hdrain, parseBytes_with_intake]

/-- R84: `CHFRAME` is `RXS` of the frame's bytes. -/
theorem runTrace_chframe (c : Vector Chan 16) (rest : List TraceOp) (s : State) :
    runTrace (.chframe c :: rest) s = runTrace (.rxs (chframeBytes c) :: rest) s := rfl

/-- R70, R84: the bytes of the frame of sixteen channel values: sync, length 24, type, 22 data bytes, CRC. -/
theorem chframeBytes_eq (c : Vector Chan 16) :
    chframeBytes c =
      syncByte :: expectLen :: acceptType :: ((pack c).toList ++ [crc8 (acceptType :: (pack c).toList)]) := by
  rw [chframeBytes, frameBytes, Vector.length_toList]
  rfl

/-- R137, R163: a frame of 22 data bytes and the CRC of its body updates the channels from those bytes. -/
theorem parseBytes_valid_frame (d : Vector Byte 22) (x : Byte) (s : State) (hp : s.pstate = .awaitSync)
    (hx : x = crc8 (acceptType :: d.toList)) :
    ∃ v : Vector Byte 24, v.toList = acceptType :: (d.toList ++ [x]) ∧
      parseBytes (syncByte :: expectLen :: acceptType :: (d.toList ++ [x])) s = { s with
        flen := expectLen, cursor := expectLen, ptype := acceptType, pb := v, ch := unpack d, new := true
        frameSeq := s.frameSeq + 1 } := by
  have hds : d.toList.length = 22 := Vector.length_toList
  have hpb := frameRead_pb_of_full (d.toList ++ [x]) s (by simp)
  have hread := frameRead_of_full d.toList x s hds
  have hupdate := completeFrame_of_crc_zero (frameRead acceptType (d.toList ++ [x]) s) rfl
    (ofNat_length_of_full d.toList x hds) ((frameRead_residue d.toList x s hds).2 hx)
  rw [dataBytesOf_of_toList _ d _ _ hpb] at hupdate
  refine ⟨_, hpb, (parseBytes_full_frame d.toList x s hp hds).trans (hupdate.trans ?_)⟩
  exact congrArg (fun t => recordUpdate { t with ch := unpack d }) hread

/-- Settles O33: the frame's 26 bytes fit the intake, the drain parses them as one valid frame, and unpacking inverts
packing. -/
theorem validFrameIsDecodedEndToEnd : Obligations.ValidFrameIsDecodedEndToEnd := by
  intro s c _ hwf hdue hp hempty hcap
  obtain ⟨v, hv, hparse⟩ := parseBytes_valid_frame (pack c) _ s hp rfl
  obtain ⟨m, _, hrun⟩ := receive_drain_run (chframeBytes c) s hwf hdue hempty (by simp [chframeBytes_eq]; omega)
  refine ⟨_, (runTrace_chframe c [.drain] s).trans (hrun []), ?_⟩
  rw [chframeBytes_eq, hparse, unpack_pack]
  exact ⟨rfl, rfl, rfl, hp, rfl, rfl, rfl, hv, by rw [← hempty]; rfl⟩

/-! ### Two drains and one (R135) -/

/-- R84, R110, R112: in IDLE, while armed and before the alarm, WAIT and TACK lead to DUE, armed and with nothing
pending. -/
theorem wait_tack_run (s : State) (rest : List TraceOp) (harmed : s.armed = true) (hahead : s.count ≠ s.alarm)
    (hidle : s.tph = .idle) :
    runTrace (.wait :: .op .tack :: rest) s =
      runTrace rest { s with
        count := s.alarm, alarm := s.alarm + s.cfg.tickPeriod, armed := true, pending := false, tph := .due } := by
  obtain ⟨ops, hexpand, _, _, hwait, _⟩ := waitEndsAtTheAlarm s harmed hahead
  have htack := (exec_tack_next { s with count := s.alarm, pending := true, armed := false } _).2 ⟨rfl, hidle, rfl⟩
  rw [runTrace_cons _ _ _ _ _ hexpand hwait, runTrace_cons _ _ _ _ _ rfl (execAll_cons .tack [] _ _ htack)]
  rfl

/-- R135: from DUE, armed and with an empty intake, receiving and draining `a` and waiting for the next tick leads back
there, with only the timer's times and the bytes of IB changed outside the parser. -/
theorem drain_and_wait_run (a : List Byte) (s : State) (hs : s.Inv) (hdue : s.tph = .due) (harmed : s.armed = true)
    (hempty : s.level = 0) (hfit : a.length ≤ s.cfg.intakeCap) :
    ∃ m count alarm, Memory.wf m = true ∧ ∀ rest,
      runTrace (.rxs a :: .drain :: .wait :: .op .tack :: rest) s =
        runTrace rest (withOuter { s with ib := m, count := count, alarm := alarm } (parseBytes a s)) := by
  have hpending : s.pending = false := by simpa [harmed] using hs.oneOfArmedPending
  have hwq : s.wq = [] := hs.wqEmpty (by rw [hdue]; nofun)
  obtain ⟨m, hm, hdrain⟩ := receive_drain_run a s hs.ibForm hdue hempty hfit
  refine ⟨m, s.alarm, s.alarm + s.cfg.tickPeriod, hm, fun rest => ?_⟩
  rw [parseBytes_frame a s] at hdrain
  refine (hdrain _).trans ((wait_tack_run _ rest ?_ ?_ ?_).trans ?_)
  · exact harmed
  · exact hs.alarmAhead harmed
  · rfl
  · rw [hempty, hwq, hpending, hdue, harmed]
    rfl

/-- Settles O26: the first drain and the wait for the next tick write nothing that the parser reads, so the second drain
parses `b` as the single drain does after `a`. -/
theorem parsingIsIndependentOfDrainSplit : Obligations.ParsingIsIndependentOfDrainSplit := by
  intro s a b hs hdue harmed hempty hfit
  have hsum := List.length_append (as := a) (bs := b)
  obtain ⟨m, _, hone⟩ := receive_drain_run (a ++ b) s hs.ibForm hdue hempty hfit
  obtain ⟨ma, count, alarm, hma, hfirst⟩ := drain_and_wait_run a s hs hdue harmed hempty (by omega)
  have hfitb : b.length ≤ s.cfg.intakeCap := by omega
  obtain ⟨mb, _, hsecond⟩ := receive_drain_run b
    (withOuter { s with ib := ma, count := count, alarm := alarm } (parseBytes a s)) hma hdue hempty hfitb
  refine ⟨_, _, hone [], (hfirst _).trans (hsecond []), ?_⟩
  rw [parseBytes_withOuter, ← parseBytes_append, parseBytes_frame (a ++ b) s]
  rfl

end Sys2Proof.Machine

/-! PROOFS. The statements about the CRC-8 engine (43_crc8.md R160 to R166): the steps and crc8 of a span, the append
property and the residue check, linearity, and the detection of single-bit errors. -/

namespace Sys2Proof.Machine

/-! ### The check byte (R163, R164) -/

/-- Settles O39: the check byte of `p` is the one byte that leaves residue zero. -/
theorem crcAppendProperty : Obligations.CrcAppendProperty :=
  fun p => (crc8_append_eq_zero p (crc8 p)).2 rfl

/-- R164: the bytes of PB are the span of the check and then the check byte. -/
theorem captureBuffer_toList (pb : Vector Byte 24) : pb.toList = pb.toList.take 23 ++ [pb[23]] := by
  have hlen : pb.toList.length = 24 := pb.length_toList
  have hsplit : pb.toList.take 23 ++ [pb.toList[23]] = pb.toList.take 24 := List.take_append_getElem (by omega)
  rw [Vector.getElem_toList] at hsplit
  exact (List.take_of_length_le hlen.le).symm.trans hsplit.symm

/-- Settles O40: the residue is zero exactly for the check byte, and byte 23 of PB is the last of its bytes. -/
theorem crcZeroResidueIffCheckByte : Obligations.CrcZeroResidueIffCheckByte := by
  refine ⟨crc8_append_eq_zero, fun pb => ?_⟩
  have h := crc8_append_eq_zero (pb.toList.take 23) pb[23]
  rwa [← captureBuffer_toList pb] at h

/-! ### Linearity, one changed byte, and the last byte (R166) -/

/-- R166: crc8 is linear, by induction on the last byte: the byte step is. -/
theorem crc8_zipWith_xor (s t : List Byte) (hlen : s.length = t.length) :
    crc8 (List.zipWith (· ^^^ ·) s t) = crc8 s ^^^ crc8 t := by
  induction s using List.reverseRecOn generalizing t with
  | nil =>
    rw [List.length_eq_zero_iff.1 hlen.symm]
    rfl
  | append_singleton s a ih =>
    cases t using List.reverseRecOn with
    | nil => simp at hlen
    | append_singleton t b =>
      have hlen' : s.length = t.length := by simpa using hlen
      have hxor : (crc8 s ^^^ crc8 t) ^^^ (a ^^^ b) = (crc8 s ^^^ a) ^^^ (crc8 t ^^^ b) := by ac_rfl
      rw [List.zipWith_append hlen', List.zipWith_cons_cons, List.zipWith_nil_right, crc8_append_one, ih t hlen', hxor,
        crcShifts_xor, ← crc8_append_one, ← crc8_append_one]

/-- R161, R162: with one span appended to both, two spans have the same crc8 exactly when they had it before: the byte
step loses nothing. -/
theorem crc8_append_right_inj (p p' q : List Byte) : crc8 (p ++ q) = crc8 (p' ++ q) ↔ crc8 p = crc8 p' := by
  induction q using List.reverseRecOn with
  | nil => rw [List.append_nil, List.append_nil]
  | append_singleton q b ih =>
    rw [← List.append_assoc, ← List.append_assoc, crc8_append_one, crc8_append_one, crcShifts_injective,
      BitVec.xor_left_inj, ih]

/-- R161, R162: two last bytes after one span give the same crc8 only when they are equal. -/
theorem crc8_append_one_inj (p : List Byte) (b b' : Byte) : crc8 (p ++ [b]) = crc8 (p ++ [b']) ↔ b = b' := by
  rw [crc8_append_one, crc8_append_one, crcShifts_injective, BitVec.xor_right_inj]

/-- R166: changing one byte anywhere in a span changes its crc8. -/
theorem crc8_replace_byte_inj (p q : List Byte) (b b' : Byte) :
    crc8 (p ++ b :: q) = crc8 (p ++ b' :: q) ↔ b = b' := by
  rw [List.append_cons, List.append_cons p b', crc8_append_right_inj, crc8_append_one_inj]

/-- R166: flipping bit `k` of a byte changes the byte. -/
theorem xor_oneBit_ne (b : Byte) (k : Nat) (hk : k < 8) : b ^^^ (1#8 <<< k) ≠ b := by
  intro h
  have hbit : (b ^^^ (1#8 <<< k)).getLsbD k = b.getLsbD k := by rw [h]
  simp [hk] at hbit

/-- R166: after `p` each value of crc8 is given by exactly one last byte, since 256 bytes give different values. -/
theorem crc8_append_one_bijective (p : List Byte) : Function.Bijective fun b => crc8 (p ++ [b]) :=
  Finite.injective_iff_bijective.1 fun b b' => (crc8_append_one_inj p b b').1

/-- Settles O41: linearity, one changed byte, and the one last byte for each value. -/
theorem crcAlgebraicProperties : Obligations.CrcAlgebraicProperties :=
  ⟨crc8_zipWith_xor,
    fun p q b k hk h => xor_oneBit_ne b k hk ((crc8_replace_byte_inj p q _ b).1 h),
    fun p => (crc8_append_one_bijective p).existsUnique⟩

/-! ### The steps, and crc8 of a span (R160 to R162) -/

/-- R160: a bit step on numbers: twice the register modulo 256, with the polynomial when bit 7 was set. -/
theorem crcShift_toNat (r p : Byte) : (crcShift r p).toNat =
    if 0x80 ≤ r.toNat then ((r.toNat * 2) % 256) ^^^ p.toNat else (r.toNat * 2) % 256 := by
  have hbit : r.getLsbD 7 = decide (0x80 ≤ r.toNat) := r.msb_eq_getLsbD_last.symm.trans r.msb_eq_decide
  have hshift : (r <<< 1).toNat = (r.toNat * 2) % 256 := by rw [BitVec.toNat_shiftLeft, Nat.shiftLeft_eq, pow_one]
  rw [crcShift, hbit]
  by_cases h : 0x80 ≤ r.toNat
  · rw [if_pos (decide_eq_true h), if_pos h, BitVec.toNat_xor, hshift]
  · rw [if_neg (by simpa using h), if_neg h, hshift]

/-- R161: the last of `n + 1` bit steps may be taken apart, as the first may. -/
theorem crcShifts_succ_last (p : Byte) (n : Nat) (r : Byte) :
    crcShifts p (n + 1) r = crcShift (crcShifts p n r) p := by
  induction n generalizing r with
  | zero => rfl
  | succ n ih => rw [crcShifts, ih, crcShifts]

/-- R161: `n` bit steps are one bit step repeated. -/
theorem crcShifts_eq_repeat (p : Byte) (n : Nat) (r : Byte) :
    crcShifts p n r = Nat.repeat (fun x => crcShift x p) n r := by
  induction n with
  | zero => rfl
  | succ n ih => rw [crcShifts_succ_last, Nat.repeat, ih]

/-- R162: a leading zero byte leaves the register at its initial zero. -/
theorem crc8_zero_cons (p : List Byte) : crc8 (0 :: p) = crc8 p := rfl

/-- R162: crc8 of zero bytes is zero. -/
theorem crc8_replicate_zero (n : Nat) : crc8 (List.replicate n 0) = 0 := by
  induction n with
  | zero => rfl
  | succ n ih => rw [List.replicate_succ, crc8_zero_cons, ih]

/-- Settles O38: the bit step on numbers, the byte step as eight of them, and crc8 byte by byte. -/
theorem crcOfASpan : Obligations.CrcOfASpan :=
  ⟨crcShift_toNat, fun r b p => crcShifts_eq_repeat p 8 (r ^^^ b), crc8_nil, crc8_append_one, crc8_replicate_zero,
    crc8_zero_cons⟩

end Sys2Proof.Machine

/-! PROOFS. The statement about the packer, the inverse of the channel unpacker (44_channel_unpacker.md R172): the packed
bytes in closed form, beside the round trip `unpack_pack`. -/

namespace Sys2Proof.Machine

/-- R172: `pack(c)[j] = (W >> 8j) & 0xFF`, as a number. -/
theorem pack_closed_form (c : Vector Chan 16) (j : Nat) (hj : j < 22) :
    ((pack c).getD j 0).toNat = (packedNumber c >>> (8 * j)) &&& 0xFF := by
  have hbyte : (pack c).getD j 0 = BitVec.ofNat 8 (packedNumber c >>> (8 * j)) := by
    rw [vector_getD, dif_pos hj, pack, Vector.getElem_ofFn]
  rw [hbyte, BitVec.toNat_ofNat]
  exact (Nat.and_two_pow_sub_one_eq_mod _ 8).symm

/-- Settles O43: each packed byte is eight bits of the packed number, and unpacking inverts packing. -/
theorem unpackOfPackIsTheChannels : Obligations.UnpackOfPackIsTheChannels :=
  fun c => ⟨pack_closed_form c, unpack_pack c⟩

end Sys2Proof.Machine

/-! PROOFS. The statements about the bus interface and reset (45_bus_interface.md R180 to R186, 20_memory.md R59): the
value of each register of the window, what the bus host's two operations change, and RST. -/

namespace Sys2Proof.Machine

/-! ### The value of each register (R181) -/

/-- R54: a byte put at bit `k` of a 32-bit value loses no bit. -/
theorem toNat_byte_shiftLeft (b : Byte) (k : Nat) (hk : k ≤ 24) :
    (b.setWidth 32 <<< k).toNat = b.toNat <<< k := by
  have hfits : b.toNat * 2 ^ k < 2 ^ 8 * 2 ^ 24 :=
    Nat.mul_lt_mul_of_lt_of_le b.isLt (Nat.pow_le_pow_right (by decide) hk) (by decide)
  rw [BitVec.toNat_shiftLeft, BitVec.toNat_setWidth_of_le (by decide), Nat.shiftLeft_eq]
  exact Nat.mod_eq_of_lt hfits

/-- R54: four bytes as a 32-bit value are those bytes side by side, the first the lowest. -/
theorem leWord_eq_append (b0 b1 b2 b3 : Byte) : leWord b0 b1 b2 b3 = b3 ++ b2 ++ b1 ++ b0 := by
  apply BitVec.eq_of_toNat_eq
  have hleft : (leWord b0 b1 b2 b3).toNat = b0.toNat ||| b1.toNat <<< 8 ||| b2.toNat <<< 16 ||| b3.toNat <<< 24 := by
    rw [leWord, BitVec.toNat_or, BitVec.toNat_or, BitVec.toNat_or, BitVec.toNat_setWidth_of_le (by decide),
      toNat_byte_shiftLeft b1 8 (by decide), toNat_byte_shiftLeft b2 16 (by decide),
      toNat_byte_shiftLeft b3 24 (by decide)]
  have hright : (b3 ++ b2 ++ b1 ++ b0).toNat =
      b3.toNat <<< 24 ||| b2.toNat <<< 16 ||| b1.toNat <<< 8 ||| b0.toNat := by
    simp only [BitVec.toNat_append, Nat.shiftLeft_or_distrib, ← Nat.shiftLeft_add]
  rw [hleft, hright]
  generalize b0.toNat = x0, b1.toNat <<< 8 = x1, b2.toNat <<< 16 = x2, b3.toNat <<< 24 = x3
  ac_rfl

/-- R80: STATUS has one flag in each of its bits 3 to 0. -/
theorem statusWord_toNat (s : State) :
    (statusWord s).toNat = s.new.toNat + 2 * s.crcErr.toNat + 4 * s.ovf.toNat + 8 * s.lenErr.toNat := by
  rw [statusWord]
  generalize s.new = n, s.crcErr = c, s.ovf = o, s.lenErr = l
  revert n c o l
  decide

/-- R38, R80: TIMER_STAT has ARMED, PENDING and the 2-bit code of TPH side by side. -/
theorem registerValue_timerStat_toNat (s : State) :
    (registerValue s .timerStat).toNat = s.armed.toNat + 2 * s.pending.toNat + 4 * s.tph.code.toNat := by
  rw [registerValue]
  generalize s.armed = a, s.pending = p, s.tph.code = c
  revert a p c
  decide

/-- R25, R80: PARSER has CURSOR, PTYPE, FLEN and the 2-bit code of PSTATE side by side. -/
theorem registerValue_parser (s : State) :
    registerValue s .parser = s.cursor ++ s.ptype ++ s.flen ++ 0#6 ++ s.pstate.code := by
  have hcode : s.pstate.code.setWidth 32 = (0#6 ++ s.pstate.code).setWidth 32 := by cases s.pstate <;> rfl
  have hbytes : registerValue s .parser = leWord (0#6 ++ s.pstate.code) s.flen s.ptype s.cursor := by
    rw [registerValue, hcode]
    rfl
  rw [hbytes, leWord_eq_append, BitVec.append_assoc (x₂ := 0#6)]
  rfl

theorem registerAt_channel (off : Byte) (hoff : off.toNat ≤ 0x3C) : registerAt off = .ch (off.toNat / 4) :=
  if_pos hoff

theorem registerAt_payload (off : Byte) (j : Nat) (hj : j < 6) (hoff : off.toNat = 0x80 + 4 * j) :
    registerAt off = .payload j := by
  obtain rfl : off = BitVec.ofNat 8 (0x80 + 4 * j) := BitVec.eq_of_toNat_eq (by rw [hoff, BitVec.toNat_ofNat]; omega)
  interval_cases j <;> rfl

theorem registerAt_reserved (off : Byte) (hoff : (0x70 ≤ off.toNat ∧ off.toNat ≤ 0x7C) ∨ 0x98 ≤ off.toNat) :
    registerAt off = .reserved := by
  revert off; decide +kernel

/-- Settles O44: the offset selects the register, and each register's value is its fields side by side. -/
theorem regReadGivesTheRegister : Obligations.RegReadGivesTheRegister := by
  intro s off _
  refine ⟨regRead s off, rfl, fun hch => ?channel, ?status, ?frameSeq, ?crcErrCnt, ?ovfCnt, ?parser, ?level, ?count,
    ?alarm, ?timerStat, ?config0, ?config1, ?config2, fun j hj hpb => ?payload, fun hres => ?reserved⟩
  case channel =>
    rw [regRead, registerAt_channel off hch]
    exact BitVec.toNat_setWidth_of_le (by decide)
  case status =>
    rintro rfl
    exact statusWord_toNat s
  case parser =>
    rintro rfl
    refine (registerValue_parser s).trans ?_
    cases s.pstate <;> rfl
  case timerStat =>
    rintro rfl
    refine (registerValue_timerStat_toNat s).trans ?_
    cases s.tph <;> rfl
  case payload =>
    rw [regRead, registerAt_payload off j hj hpb]
    exact leWord_eq_append _ _ _ _
  case reserved =>
    rw [regRead, registerAt_reserved off hres]
    rfl
  case frameSeq | crcErrCnt | ovfCnt | level | count | alarm | config0 | config1 | config2 =>
    rintro rfl
    rfl

/-! ### The bus host's operations (R180, R182 to R185) -/

/-- R180: the bus host's operations are BRD and BWR. -/
theorem agent_eq_busHost (i : Instr) :
    i.agent = .busHost ↔ (∃ off, i = .brd off) ∨ ∃ off data, i = .bwr off data := by
  cases i <;> simp [Instr.agent]

/-- R183, R184: what a write at an offset does to a flag. -/
theorem regWrite_flag (v : Word) (off : Byte) (s : State) (f : StatusFlag) :
    (regWrite v off s).flag f = (s.flag f && !(off == 0x40 && v.getLsbD f.bit)) := by
  rcases regWrite_cases v off s with ⟨hoff, hw⟩ | ⟨hoff, hw⟩
  · rw [hw, statusW1C_flag, hoff]
    rfl
  · rw [hw, beq_false_of_ne hoff, Bool.false_and, Bool.not_false, Bool.and_true]

theorem returnToHost_flag (v : Word) (s : State) (f : StatusFlag) : (returnToHost v s).flag f = s.flag f := by
  cases f <;> rfl

/-- Settles O48: the bus host reads, or writes a register, and neither sets a flag. -/
theorem busHostOnlyClearsFlags : Obligations.BusHostOnlyClearsFlags := by
  intro i s t hagent h
  rcases (agent_eq_busHost i).1 hagent with ⟨off, rfl⟩ | ⟨off, data, rfl⟩
  · obtain ⟨_, rfl⟩ := (exec_brd_next off s t).1 h
    exact ⟨fun f hset => (returnToHost_flag _ s f).symm.trans hset, rfl⟩
  · obtain ⟨_, rfl⟩ := (exec_bwr_next off data s t).1 h
    refine ⟨fun f hset => ?_, ?_⟩
    · rw [regWrite_flag, Bool.and_eq_true] at hset
      exact hset.1
    · rw [regWrite_busReads]
      exact regWrite_frame _ off s

/-- Settles O45: a write at 0x40 clears the flags whose bit is 1, and a write elsewhere is no write. -/
theorem bwrClearsStatusBits : Obligations.BwrClearsStatusBits := by
  intro s off data haligned
  refine ⟨_, (exec_bwr_next off data s _).2 ⟨haligned, rfl⟩, fun hoff f => ?_, fun hoff => ?_,
    regWrite_frame _ off s⟩
  · rw [regWrite_flag, hoff, writeValue_flag_bit]
    rfl
  · exact ((regWrite_cases (writeValue data) off s).resolve_left fun hstatus => hoff hstatus.1).2

/-! ### Repeated accesses (R59, R182) -/

/-- R182: the window does not show the values returned to the bus host. -/
theorem regRead_returnToHost (v : Word) (s : State) (off : Byte) : regRead (returnToHost v s) off = regRead s off := by
  unfold regRead
  cases registerAt off <;> rfl

/-- R184: a flag cleared twice is cleared. -/
theorem statusW1C_statusW1C (v : Word) (s : State) : statusW1C v (statusW1C v s) = statusW1C v s := by
  simp [statusW1C]

/-- R59: a second identical write changes nothing more. -/
theorem regWrite_regWrite (v : Word) (off : Byte) (s : State) :
    regWrite v off (regWrite v off s) = regWrite v off s := by
  unfold regWrite
  cases registerAt off with
  | status => exact statusW1C_statusW1C v s
  | _ => rfl

/-- Settles O47: a read leaves what the next read is given, and a write leaves nothing for the same write to change. -/
theorem busAccessIsIdempotent : Obligations.BusAccessIsIdempotent := by
  intro s off data haligned
  have hread (u : State) : exec (.brd off) u = .next (returnToHost (regRead u off) u) :=
    (exec_brd_next off u _).2 ⟨haligned, rfl⟩
  have hwrite (u : State) : exec (.bwr off data) u = .next (regWrite (writeValue data) off u) :=
    (exec_bwr_next off data u _).2 ⟨haligned, rfl⟩
  refine ⟨hread s, ?_, ?_⟩
  · rw [execAll_cons _ _ _ _ (hread _), execAll_cons _ _ _ _ (hread _), regRead_returnToHost]
    rfl
  · rw [execAll_cons _ _ _ _ (hwrite s), execAll_cons _ _ _ _ (hwrite _), execAll_cons _ _ _ _ (hwrite s),
      regWrite_regWrite]

/-! ### Reset (R186) -/

theorem resetCore_flag (s : State) (f : StatusFlag) : (resetCore s).flag f = false := by cases f <;> rfl

/-- Settles O49: each element of `resetCore` is the reset value that R41 lists. -/
theorem rstRestoresEveryElement : Obligations.RstRestoresEveryElement := by
  intro s
  refine ⟨resetCore s, exec_rst s, fun _ => rfl, rfl, rfl, rfl, rfl, rfl, rfl, fun j hj => ?_, fun k hk => ?_,
    resetCore_flag s, rfl, rfl, rfl, rfl, rfl, rfl, rfl, rfl⟩
  · rw [resetCore_pb, Vector.getElem?_replicate, if_pos hj]
  · rw [resetCore_ch, Vector.getElem?_replicate, if_pos hk]

end Sys2Proof.Machine

/-! PROOFS. The statements about exceptions (60_exceptions.md R205, R206, R208): what one PSTEP records, and that a byte
received inside a tick body commutes with it. -/

namespace Sys2Proof.Machine

/-- Settles O37: a PSTEP is the parser's step on the head of WQ, which records one of four outcomes. -/
theorem pstepRecordsAtMostOneEvent : Obligations.PstepRecordsAtMostOneEvent := by
  intro s t h
  obtain ⟨_, b, rest, _, rfl⟩ := (exec_pstep_next s t).1 h
  rcases parseByte_records b { s with wq := rest } with hnone | ⟨hp, hupdate⟩ | ⟨hp, hch, hseq, hnew, hcnt, hcrc, hlen⟩ |
    ⟨hp, hch, hseq, hnew, hcnt, hcrc, hlen⟩
  · exact .inl hnone
  · obtain ⟨hseq, hnew, hcnt, hcrc, hlen⟩ := hupdate
    exact .inr (.inl ⟨hseq, hnew, hcnt, hcrc, hlen, hp⟩)
  · exact .inr (.inr (.inl ⟨hch, hseq, hnew, hcnt, hcrc, hlen, hp⟩))
  · exact .inr (.inr (.inr ⟨hch, hseq, hnew, hcnt, hcrc, hlen, hp⟩))

/-! ### A byte received inside a tick body (R205, R208) -/

theorem OnlyIntakeWritten.wq {s t : State} (h : OnlyIntakeWritten s t) : t.wq = s.wq := by
  unfold OnlyIntakeWritten at h
  rw [h]

theorem OnlyIntakeWritten.tph {s t : State} (h : OnlyIntakeWritten s t) : t.tph = s.tph := by
  unfold OnlyIntakeWritten at h
  rw [h]

/-- R101, R130: the parser neither reads nor writes the record of an overflow. -/
theorem parseByte_recordOverflow (b : Byte) (s : State) :
    parseByte b (recordOverflow s) = recordOverflow (parseByte b s) := by
  refine (parseByte_withOuter b (recordOverflow s) s).trans ?_
  rw [parseByte_frame b s]
  rfl

/-- R100, R101: a parser step before an RXB leaves its overflow test and its write as they are. -/
theorem exec_rxb_parseByte (b c : Byte) {s u : State} (h : exec (.rxb b) s = .next u) :
    exec (.rxb b) (parseByte c s) = .next (parseByte c u) := by
  rcases (exec_rxb_next b s u).1 h with ⟨hfull, hpos, rfl⟩ | ⟨hroom, rfl⟩
  · rw [exec_rxb_of_full b (parseByte c s) (by rwa [parseByte_cfg]) (by simpa using hfull), parseByte_ib,
      ← parseByte_recordOverflow]
    exact congrArg _ (parseBytes_with_intake [c] (recordOverflow s) _ _).symm
  · rw [exec_rxb_of_room b (parseByte c s) (by simpa using hroom), parseByte_ib, parseByte_level]
    exact congrArg _ (parseBytes_with_intake [c] s _ _).symm

/-- R100, R101: RXB neither reads nor writes WQ. -/
theorem exec_rxb_with_wq (b : Byte) (q : List Byte) {s u : State} (h : exec (.rxb b) s = .next u) :
    exec (.rxb b) { s with wq := q } = .next { u with wq := q } := by
  rw [exec_rxb_next]
  rcases (exec_rxb_next b s u).1 h with ⟨hfull, hpos, rfl⟩ | ⟨hroom, rfl⟩
  · exact .inl ⟨hfull, hpos, rfl⟩
  · exact .inr ⟨hroom, rfl⟩

/-- Settles O60: RXB writes only the intake, so it leaves PSTEP its guard and the head of WQ, and the parser's step on
that head commutes with it. -/
theorem arrivalCommutesWithParsing : Obligations.ArrivalCommutesWithParsing := by
  intro s b hs hparsing hwq
  obtain ⟨c, rest, hcons⟩ := List.exists_cons_of_ne_nil hwq
  obtain ⟨u, hrxb⟩ := exec_rxb_total b s hs.cfgValid.1 hs.levelBound
  have hintake := exec_rxb_onlyIntakeWritten b s u hrxb
  have hpstep := exec_pstep_cons u c rest (hintake.tph.trans hparsing) (hintake.wq.trans hcons)
  have hrxb' := exec_rxb_parseByte b c (exec_rxb_with_wq b rest hrxb)
  refine ⟨parseByte c { u with wq := rest }, ?_, ?_⟩
  · rw [execAll_cons _ _ _ _ hrxb, execAll_cons _ _ _ _ hpstep]
    rfl
  · rw [execAll_cons _ _ _ _ (exec_pstep_cons s c rest hparsing hcons), execAll_cons _ _ _ _ hrxb']
    rfl

end Sys2Proof.Machine

/-! PROOFS. The statements about reset and hazards (70_reset_and_hazards.md R231, R242): the first tick after reset, and
the FRAME_SEQ protocol. -/

namespace Sys2Proof.Machine

/-! ### The first tick after reset (R231) -/

/-- R230: reset starts a period. -/
theorem AtPeriodStart.resetWith (c : Config) (hc : c.Valid) : AtPeriodStart (State.resetWith c) where
  cfgValid := hc
  armed := rfl
  notPending := rfl
  idle := rfl
  nothingHeld := rfl
  nothingDrained := rfl
  alarmAhead := (BitVec.zero_add c.tickPeriod).symm

/-- Settles O19: reset starts a period, whose counts are those of WAIT, and of these only the last meets the alarm. -/
theorem firstTickAfterOnePeriod : Obligations.FirstTickAfterOnePeriod := by
  intro c hc n hn
  have hstart := AtPeriodStart.resetWith c hc
  have hwait : waitCount (State.resetWith c) = c.tickPeriod.toNat := hstart.waitCount_eq
  rcases Nat.lt_or_eq_of_le hn with hlt | rfl
  · exact ⟨_, wait_run_before_alarm _ n (hwait ▸ hlt), BitVec.zero_add _, ⟨nofun, fun h => absurd h hlt.ne⟩, rfl⟩
  · have hpos : 1 ≤ waitCount (State.resetWith c) := by
      rw [hwait, Nat.one_le_iff_ne_zero]
      exact fun hz => hc.2.2 (BitVec.eq_of_toNat_eq hz)
    have hcount : BitVec.ofNat 32 c.tickPeriod.toNat = c.tickPeriod := by simp
    exact ⟨_, hwait ▸ wait_run _ hstart.armed hpos, hcount.symm, ⟨fun _ => rfl, fun _ => rfl⟩, rfl⟩

/-! ### The FRAME_SEQ protocol (R137, R242) -/

/-- R137, R206: a parser step leaves CH and FRAME_SEQ, or counts an update. -/
theorem parseByte_updates_or_keeps (b : Byte) (s : State) :
    ((parseByte b s).ch = s.ch ∧ (parseByte b s).frameSeq = s.frameSeq) ∨
      (parseByte b s).frameSeq = s.frameSeq + 1 := by
  rcases parseByte_records b s with ⟨hch, hseq, _⟩ | ⟨_, hseq, _⟩ | ⟨_, hch, hseq, _⟩ | ⟨_, hch, hseq, _⟩
  · exact .inl ⟨hch, hseq⟩
  · exact .inr hseq
  · exact .inl ⟨hch, hseq⟩
  · exact .inl ⟨hch, hseq⟩

/-- R30, R32, R137: an operation but RST leaves CH and FRAME_SEQ, or counts an update: no channel is written without a
count. -/
theorem exec_updates_or_keeps (i : Instr) (s t : State) (hi : i ≠ .rst) (h : exec i s = .next t) :
    (t.ch = s.ch ∧ t.frameSeq = s.frameSeq) ∨ t.frameSeq = s.frameSeq + 1 := by
  rcases exec_cases i s t h with ⟨_, _, _, _, rfl⟩ | ⟨_, _, _, rfl⟩ | ⟨_, rfl⟩ | ⟨_, _, _, rfl⟩ | ⟨_, _, _, rfl⟩ |
    ⟨b, rest, _, _, _, rfl⟩ | ⟨_, _, _, rfl⟩ | ⟨_, _, _, rfl⟩ | ⟨_, _, _, _, rfl⟩ | ⟨hrst, _⟩ | ⟨b, _, _, _, rfl⟩
  · exact .inl ⟨rfl, rfl⟩
  · exact .inl ⟨rfl, rfl⟩
  · rw [timerTick_frame]
    exact .inl ⟨rfl, rfl⟩
  · exact .inl ⟨rfl, rfl⟩
  · exact .inl ⟨rfl, rfl⟩
  · exact parseByte_updates_or_keeps b { s with wq := rest }
  · exact .inl ⟨rfl, rfl⟩
  · exact .inl ⟨rfl, rfl⟩
  · rw [regWrite_frame]
    exact .inl ⟨rfl, rfl⟩
  · exact absurd hrst hi
  · exact parseByte_updates_or_keeps b s

/-- R32, R242: a run without RST adds the number of its updates to FRAME_SEQ. -/
theorem execAll_frameSeq (is : List Instr) (s t : State) (hrst : .rst ∉ is) (h : execAll is s = .next t) :
    t.frameSeq = s.frameSeq + BitVec.ofNat 32 (updates is s) := by
  induction is generalizing s with
  | nil =>
    cases h
    exact (BitVec.add_zero _).symm
  | cons i is ih =>
    obtain ⟨u, hexec, hrun⟩ := execAll_cons_next i is s t h
    obtain ⟨hi, his⟩ := List.ne_and_not_mem_of_not_mem_cons hrst
    rw [updates_cons i is s u hexec, ih u his hrun]
    rcases exec_updates_or_keeps i s u (Ne.symm hi) hexec with hkeeps | hseq
    · rw [if_pos hkeeps, Nat.zero_add, hkeeps.2]
    · have hchanged : ¬(u.ch = s.ch ∧ u.frameSeq = s.frameSeq) := by simp [hseq]
      rw [if_neg hchanged, Nat.add_comm, hseq, count_succ]

/-- R242: a run with no update shows the same channels at each of its states. -/
theorem execAll_take_ch_of_no_updates (is : List Instr) (s : State) (h : updates is s = 0) (n : Nat) (u : State)
    (hrun : execAll (is.take n) s = .next u) : u.ch = s.ch := by
  induction is generalizing s n with
  | nil =>
    rw [List.take_nil] at hrun
    cases hrun
    rfl
  | cons i is ih =>
    cases n with
    | zero =>
      cases hrun
      rfl
    | succ n =>
      obtain ⟨v, hexec, hrest⟩ := execAll_cons_next i (is.take n) s u hrun
      rw [updates_cons i is s v hexec, Nat.add_eq_zero_iff] at h
      obtain ⟨hkeeps, hnone⟩ := h
      have hch : v.ch = s.ch := by
        by_contra hne
        simp [hne] at hkeeps
      exact (ih v hnone n hrest).trans hch

/-- Settles O57: FRAME_SEQ counts the updates modulo 2^32, so it comes back to its value only after a multiple of 2^32
updates; below 2^32 that is none. -/
theorem frameSeqProtocolGivesOneFrame : Obligations.FrameSeqProtocolGivesOneFrame := by
  intro is s t hrst hrun hsame
  have hzero : BitVec.ofNat 32 (updates is s) = 0 := by
    rw [execAll_frameSeq is s t hrst hrun] at hsame
    exact add_eq_left.1 hsame
  have hdvd : 2 ^ 32 ∣ updates is s := Nat.dvd_of_mod_eq_zero (by simpa using congrArg BitVec.toNat hzero)
  exact ⟨hdvd, fun hlt => execAll_take_ch_of_no_updates is s (Nat.eq_zero_of_dvd_of_lt hdvd hlt)⟩

end Sys2Proof.Machine
